-- ==== Sys2Proof/Word.lean ====
section
/-! DEFINITION. The widths of PPS-CORE's values (00_scope.md R11, R12): every value is an unsigned integer of a stated width. -/

namespace Sys2Proof

/-- `u8`: a byte of a stream, a packet latch of 8 bits. -/
abbrev Byte := BitVec 8

/-- `u16`: the magic, SIZE, the checksums and PIDX. -/
abbrev Half := BitVec 16

/-- `u32`: a register of the window, a counter. -/
abbrev Word := BitVec 32

/-- A stored value of the raster or a raw index, 0 to 3 (00_scope.md R16). -/
abbrev Stored := BitVec 2

end Sys2Proof
end

