-- ==== Sys2Proof/Config.lean ====
section
/-! DEFINITION. The constants that the spec fixes (00_scope.md R9), the parameters it leaves to the implementation (R10) and
the free values: opaque constants that nothing in Lean can evaluate. -/

namespace Sys2Proof.Config

/-- WIDTH, the image width in pixels (00_scope.md R9). -/
def width : Nat := 160
/-- ROW_BYTES, the bytes of tile data of one pixel row (00_scope.md R9). -/
def rowBytes : Nat := 40
/-- Tiles side by side in a strip (00_scope.md R9). -/
def tilesPerStrip : Nat := 20
/-- Pixels per tile side (00_scope.md R9). -/
def tileSide : Nat := 8
/-- Bytes per tile (00_scope.md R9). -/
def tileBytes : Nat := 16
/-- STRIP_BYTES (00_scope.md R9). -/
def stripBytes : Nat := 320
/-- The magic that opens a packet (00_scope.md R9, 30_encoding.md R132). -/
def magic : Half := 0x3388#16
/-- The command codes of 30_encoding.md R133. -/
def cmdInit : Byte := 0x01#8
/-- PRINT (30_encoding.md R133). -/
def cmdPrint : Byte := 0x02#8
/-- FILL, raw or RLE (30_encoding.md R133). -/
def cmdFill : Byte := 0x04#8
/-- STATUS (30_encoding.md R133). -/
def cmdStatus : Byte := 0x0F#8
/-- The largest number of data bytes of a chunk of a conforming PNG, 2^31 - 1 (44_png.md R311). -/
def chunkLimit : Nat := 2147483647

/-- DEFLATE_IMPL (00_scope.md R10): the normative STORED compressor (44_png.md R293), or another one, a function f that meets
the contract of R300. `which` tells such functions apart (log entry 5). -/
inductive DeflateImpl where
  | stored
  | other (which : Nat)
deriving DecidableEq, Repr

/-- The parameters of 00_scope.md R10, each an argument of the model. The tick period is the platform's and has no value
inside the block. DESIGN CHOICE (log entry 4): they stand in `State`, which no event changes, since the form of `exec` is
the host's. -/
structure Params where
  /-- STORE_BYTES, 1 to 2^32-1. -/
  storeBytes : Word
  /-- MAX_PARTS, 1 to 2^32-1. -/
  maxParts : Word
  /-- DEFLATE_IMPL. -/
  deflate : DeflateImpl
  /-- STORED_BLOCK_MAX, 1 to 65535. -/
  storedBlockMax : Half
  /-- The reset value of IDLE_LIMIT, 0 to 2^32-1. -/
  idleLimitReset : Word
deriving DecidableEq, Repr

/-- The recommended values of 00_scope.md R10. -/
def Params.recommended : Params :=
  { storeBytes := 0x00100000#32, maxParts := 256#32, deflate := .stored, storedBlockMax := 65535#16
    idleLimitReset := 500#32 }

/-- The ranges of 00_scope.md R10: every capacity is at least 1; the IDLE_LIMIT reset value has its whole width. -/
def Params.inRange (p : Params) : Bool :=
  p.storeBytes != 0#32 && p.maxParts != 0#32 && p.storedBlockMax != 0#16

/-- FREE VALUE (log entry 5). What compressor `which` proposes for some bytes: a function of those bytes alone (44_png.md R300).
`Machine.otherStream` holds it to the contract of R300. -/
opaque deflateOther (which : Nat) (bytes : List Byte) : List Byte

/-- FREE VALUE (log entry 6). ROWS_ACC after a PRINT whose sum `acc + add` leaves 32 bits: no rule states it. -/
opaque rowsAccOverflow : Word → Nat → Word

/-- FREE VALUE (log entry 7). The 32-bit height of an image whose height does not fit in 32 bits: no rule states it. -/
opaque heightOverflow : Nat → Word

end Sys2Proof.Config
end

