-- ==== Sys2Proof/Syntax.lean ====
section
/-! DEFINITION. The instruction set: the packet commands of 30_encoding.md R133 and, inside a FILL.RLE payload, the RLE codes
of R140 (00_scope.md R2). One constructor per row of spec/opcode_table.json. -/

namespace Sys2Proof

/-- One command or RLE code. A packet command carries its COMP byte where the row leaves it open, and its payload (SIZE is the
payload's length, 41_commands.md R220). ACK and STATUS are no operands of any command (R220). -/
inductive Instr where
  /-- INIT, CMD 0x01, any COMP and payload (41_commands.md R221). -/
  | init (comp : Byte) (payload : List Byte)
  /-- PRINT, CMD 0x02, any COMP (41_commands.md R227). -/
  | print (comp : Byte) (payload : List Byte)
  /-- FILL.RAW, CMD 0x04 with COMP 0x00 (41_commands.md R223). -/
  | fillRaw (payload : List Byte)
  /-- FILL.RLE, CMD 0x04 with a nonzero COMP (41_commands.md R224). -/
  | fillRle (comp : Byte) (payload : List Byte)
  /-- STATUS, CMD 0x0F (41_commands.md R229). -/
  | status (comp : Byte) (payload : List Byte)
  /-- OTHER, any other CMD (41_commands.md R230). -/
  | other (cmd comp : Byte) (payload : List Byte)
  /-- RLE.RUN: `n` is c[6:0]; the value byte is `none` where the payload ends after the control byte (42_rle.md R241, R243). -/
  | rleRun (n : BitVec 7) (v : Option Byte)
  /-- RLE.LIT: `n` is c[6:0]; `bytes` are the literal bytes, fewer than n + 1 where the payload ends inside the span
  (42_rle.md R242, R244). -/
  | rleLit (n : BitVec 7) (bytes : List Byte)
deriving DecidableEq, Repr

/-- The two code sets (00_scope.md R2). -/
inductive CodeSet where
  | packet
  | rle
deriving DecidableEq, Repr

/-- The code set of an instruction: opcode_table.json's "format". -/
def Instr.codeSet : Instr → CodeSet
  | .init _ _ => .packet
  | .print _ _ => .packet
  | .fillRaw _ => .packet
  | .fillRle _ _ => .packet
  | .status _ _ => .packet
  | .other _ _ _ => .packet
  | .rleRun _ _ => .rle
  | .rleLit _ _ => .rle

end Sys2Proof
end

