-- ==== Sys2Proof/WellFormed.lean ====
section
/-! DEFINITION. Which terms of `Instr` stand for an encoding of 30_encoding.md. -/

namespace Sys2Proof

/-- A payload's length fits SIZE, 0 to 65535 (30_encoding.md R135). -/
def payloadFits (payload : List Byte) : Bool := decide (payload.length < 65536)

/-- CMD values that name a command of their own (30_encoding.md R133); every other one is OTHER (R152). -/
def isNamedCommand (cmd : Byte) : Bool :=
  cmd == Config.cmdInit || cmd == Config.cmdPrint || cmd == Config.cmdFill || cmd == Config.cmdStatus

/-- The conditions of the rows of opcode_table.json: FILL.RLE has a nonzero COMP, OTHER an unnamed CMD, a literal span at most
n + 1 bytes. A code cut short by the payload's end is well formed: 42_rle.md R243 and R244 give it its effect. -/
def Instr.wellFormed : Instr → Bool
  | .init _ payload => payloadFits payload
  | .print _ payload => payloadFits payload
  | .fillRaw payload => payloadFits payload
  | .fillRle comp payload => comp != 0#8 && payloadFits payload
  | .status _ payload => payloadFits payload
  | .other cmd _ payload => !isNamedCommand cmd && payloadFits payload
  | .rleRun _ _ => true
  | .rleLit n bytes => decide (bytes.length ≤ n.toNat + 1)

/-- A code that has all its data bytes: what may stand anywhere in a payload, not only at its end (30_encoding.md R141, R142). -/
def Instr.complete : Instr → Bool
  | .init _ _ => true
  | .print _ _ => true
  | .fillRaw _ => true
  | .fillRle _ _ => true
  | .status _ _ => true
  | .other _ _ _ => true
  | .rleRun _ v => v.isSome
  | .rleLit n bytes => decide (bytes.length = n.toNat + 1)

end Sys2Proof
end

