-- ==== Sys2Proof/Decode.lean ====
section
/-! DEFINITION. The decoder of both code sets (30_encoding.md), total on any bytes and rejecting by name, the encoder (the
assembler's packets of R155 and codes of R156), and the host's table-word question. -/

namespace Sys2Proof

/-- `LE16` (00_scope.md R13): the first byte is bits 7:0 (20_memory.md R101). -/
def le16 (lo hi : Byte) : Half := hi ++ lo

/-- Bits 7:0 of a 16-bit value. -/
def lo8 (h : Half) : Byte := h.extractLsb' 0 8

/-- Bits 15:8 of a 16-bit value. -/
def hi8 (h : Half) : Byte := h.extractLsb' 8 8

/-- The sum of some bytes modulo 2^16, from `acc` on (40_framer.md R192). -/
def sumBytes (acc : Half) : List Byte → Half
  | [] => acc
  | b :: bs => sumBytes (acc + b.setWidth 16) bs

/-- The required checksum of a packet (40_framer.md R192): CMD, COMP, both SIZE bytes and the payload, modulo 2^16. -/
def packetChecksum (cmd comp : Byte) (size : Half) (payload : List Byte) : Half :=
  sumBytes (cmd.setWidth 16 + comp.setWidth 16 + (lo8 size).setWidth 16 + (hi8 size).setWidth 16) payload

/-- Why bytes decode to no instruction. The machine itself never stops on them: its framer raises DESYNC, skips or aborts
(40_framer.md R186, R195), or waits for the missing bytes. -/
inductive DecodeError where
  /-- The magic is not 0x3388 (30_encoding.md R132). -/
  | badMagic (got : Half)
  /-- The transmitted checksum is not the required one (30_encoding.md R136). -/
  | badChecksum (required got : Half)
  /-- Fewer bytes than the packet's 10 + SIZE (30_encoding.md R131), or no control byte. -/
  | truncated
deriving DecidableEq, Repr

/-- A decoder's answer: an instruction and the bytes after it, or a rejection by name. -/
inductive Decoded where
  | ok (i : Instr) (rest : List Byte)
  | reject (e : DecodeError)
deriving DecidableEq, Repr

/-- The packet dispatch of 30_encoding.md R154: CMD selects, COMP splits FILL, every other CMD is OTHER. -/
def decodeCommand (cmd comp : Byte) (payload : List Byte) : Instr :=
  if cmd = Config.cmdInit then .init comp payload
  else if cmd = Config.cmdPrint then .print comp payload
  else if cmd = Config.cmdFill then (if comp = 0#8 then .fillRaw payload else .fillRle comp payload)
  else if cmd = Config.cmdStatus then .status comp payload
  else .other cmd comp payload

/-- The RLE dispatch of 30_encoding.md R140 to R142 on a control byte `c` followed by `rest`. -/
def decodeCode (c : Byte) (rest : List Byte) : Instr × List Byte :=
  let n := c.extractLsb' 0 7
  if c.getLsbD 7 then
    match rest with
    | [] => (.rleRun n none, [])
    | v :: tail => (.rleRun n (some v), tail)
  else (.rleLit n (rest.take (n.toNat + 1)), rest.drop (n.toNat + 1))

/-- The RLE decoder: the next code of a payload and what follows it. -/
def decodeRle : List Byte → Decoded
  | [] => .reject .truncated
  | c :: rest => .ok (decodeCode c rest).1 (decodeCode c rest).2

/-- The packet decoder on a whole packet (30_encoding.md R130): the framer's field rules read in one go. -/
def decodePacket : List Byte → Decoded
  | m0 :: m1 :: tail =>
    if le16 m0 m1 = Config.magic then
      match tail with
      | cmd :: comp :: s0 :: s1 :: body =>
        let size := le16 s0 s1
        match body.drop size.toNat with
        | c0 :: c1 :: _ack :: _status :: rest =>
          let payload := body.take size.toNat
          if le16 c0 c1 = packetChecksum cmd comp size payload then .ok (decodeCommand cmd comp payload) rest
          else .reject (.badChecksum (packetChecksum cmd comp size payload) (le16 c0 c1))
        | _ => .reject .truncated
      | _ => .reject .truncated
    else .reject (.badMagic (le16 m0 m1))
  | _ => .reject .truncated

/-- The decoder of one code set. -/
def decode : CodeSet → List Byte → Decoded
  | .packet, bytes => decodePacket bytes
  | .rle, bytes => decodeRle bytes

/-- A packet's bytes (30_encoding.md R130) with the right checksum (R155) and the given ACK and STATUS bytes. -/
def packetBytes (cmd comp : Byte) (payload : List Byte) (ack status : Byte) : List Byte :=
  let size := BitVec.ofNat 16 payload.length
  let csum := packetChecksum cmd comp size payload
  [lo8 Config.magic, hi8 Config.magic, cmd, comp, lo8 size, hi8 size] ++ payload
    ++ [lo8 csum, hi8 csum, ack, status]

/-- The CMD byte of a packet command (30_encoding.md R133); an RLE code has none. -/
def Instr.cmd? : Instr → Option Byte
  | .init _ _ => some Config.cmdInit
  | .print _ _ => some Config.cmdPrint
  | .fillRaw _ => some Config.cmdFill
  | .fillRle _ _ => some Config.cmdFill
  | .status _ _ => some Config.cmdStatus
  | .other cmd _ _ => some cmd
  | .rleRun _ _ => none
  | .rleLit _ _ => none

/-- The bytes of an instruction with the given ACK and STATUS bytes of its packet (an RLE code has neither). -/
def encodeWith (ack status : Byte) : Instr → List Byte
  | .init comp payload => packetBytes Config.cmdInit comp payload ack status
  | .print comp payload => packetBytes Config.cmdPrint comp payload ack status
  | .fillRaw payload => packetBytes Config.cmdFill 0#8 payload ack status
  | .fillRle comp payload => packetBytes Config.cmdFill comp payload ack status
  | .status comp payload => packetBytes Config.cmdStatus comp payload ack status
  | .other cmd comp payload => packetBytes cmd comp payload ack status
  | .rleRun n v => (1#1 ++ n) :: v.toList
  | .rleLit n bytes => (0#1 ++ n) :: bytes

/-- The encoder: the assembler's bytes, with ACK = STATUS = 0x00 (30_encoding.md R155, R156). -/
def encode (i : Instr) : List Byte := encodeWith 0#8 0#8 i

/-- The bytes that a word of opcode_table.json stands for, its other bytes zero but for what the row's condition asks (a valid
checksum). DESIGN CHOICE (log entry 14): the table writes a packet row as its bytes 2 and 3 (CMD, COMP) and an RLE row as its
control byte, and nothing in the word says which; more than 8 bits are a packet's CMD and COMP, 8 bits or fewer are a named CMD
where they are one and else a control byte, and no bits at all are CMD 0. -/
def tableWordBytes (nbits w : Nat) : CodeSet × List Byte :=
  let lo := BitVec.ofNat 8 w
  let hi := BitVec.ofNat 8 (w / 256)
  if nbits = 0 then (.packet, packetBytes 0#8 0#8 [] 0#8 0#8)
  else if 8 < nbits then (.packet, packetBytes lo hi [] 0#8 0#8)
  else if isNamedCommand lo then (.packet, packetBytes lo 0#8 [] 0#8 0#8)
  else if lo.getLsbD 7 then (.rle, [lo, 0#8])
  else (.rle, lo :: List.replicate (lo.toNat + 1) 0#8)

/-- The instruction that the decoder reads from a word of opcode_table.json. -/
def decodeTableWord (nbits w : Nat) : Option Instr :=
  match decode (tableWordBytes nbits w).1 (tableWordBytes nbits w).2 with
  | .ok i _ => some i
  | .reject _ => none

end Sys2Proof
end

