-- ==== Sys2Proof/Machine/State.lean ====
section
/-! DEFINITION. The state of one PPS-CORE instance: `Block` is the record of 10_state.md R30 and nothing else; `State` is a
block with what the host's form of `exec` and `step` leaves no other place for: the configuration of 00_scope.md R10 and four
fields of the model's own (log entries 1, 4, 11, 12, 13). -/

namespace Sys2Proof.Machine

/-- SESSION (10_state.md R32), codes 0 to 4 in this order. -/
inductive SessionState where
  | idle
  | receiving
  | aborted
  | finalizing
  | emitting
deriving DecidableEq, Repr

/-- FIELD, the framer cursor (10_state.md R33), codes 0 to 10 in this order. -/
inductive FramerField where
  | magic0
  | magic1
  | cmd
  | comp
  | size0
  | size1
  | payload
  | csum0
  | csum1
  | ack
  | status
deriving DecidableEq, Repr

/-- FATAL_KIND (10_state.md R45, 60_exceptions.md R400). -/
inductive FatalKind where
  | none
  | desync
  | checksum
  | overflow
deriving DecidableEq, Repr

/-- One ImagePart: its palette byte and the VRAM bytes at its PRINT (10_state.md R41, 20_memory.md R118). -/
structure ImagePart where
  pal : Byte
  tiles : List Byte
deriving DecidableEq, Repr

/-- A request on the register port (10_state.md R68, 20_memory.md R110): csr_addr, and csr_wdata for a write. -/
inductive CsrRequest where
  | read (offset : Byte)
  | write (offset : Byte) (v : Word)
deriving DecidableEq, Repr

/-- What the register port answers at the last event (20_memory.md R110). -/
inductive CsrAnswer where
  /-- After Reset: csr_ack, csr_err and csr_rdata are 0 (10_state.md R68). -/
  | atReset
  /-- The event was no register access. -/
  | quiet
  /-- A read's answer: csr_ack = 1 with csr_rdata. -/
  | readData (v : Word)
  /-- A read refused for its offset: csr_err = 1 with csr_rdata = 0. -/
  | readError
  /-- A write's answer: csr_ack = 1. -/
  | written
  /-- A write refused for its offset: csr_err = 1. -/
  | writeError
deriving DecidableEq, Repr

/-- The inputs of one clocked cycle (10_state.md R68); `finalizeNow` says whether the implementation takes its internal
Finalize step in this cycle (70_reset_and_hazards.md R470). -/
structure CycleIn where
  rst : Bool
  /-- in_valid with in_data. -/
  inData : Option Byte
  disconnect : Bool
  tick : Bool
  outReady : Bool
  /-- csr_req with csr_we, csr_addr and csr_wdata. -/
  csr : Option CsrRequest
  finalizeNow : Bool
deriving DecidableEq, Repr

/-- The events of 00_scope.md R6, and a clocked cycle that may merge several (60_exceptions.md R421). -/
inductive Event where
  /-- The transport hands over a byte (40_framer.md R180). -/
  | byteIn (b : Byte)
  /-- One time-unit elapses (45_session.md R342). -/
  | tick
  /-- The transport signals disconnect (45_session.md R346). -/
  | disconnect
  /-- The host reads a register (20_memory.md R110). -/
  | csrRead (offset : Byte)
  /-- The host writes a register (20_memory.md R110). -/
  | csrWrite (offset : Byte) (v : Word)
  /-- The host takes a PNG byte (44_png.md R322). -/
  | outPop
  /-- Reset (70_reset_and_hazards.md R450). -/
  | reset
  /-- The internal step (45_session.md R350). -/
  | finalize
  /-- One cycle of a clocked implementation (60_exceptions.md R421). -/
  | cycle (c : CycleIn)
deriving DecidableEq, Repr

/-- The working variables of rle_decompress (42_rle.md R240): the output d and the flag bad. -/
structure RleUnit where
  out : List Byte
  bad : Bool
deriving DecidableEq, Repr

/-- The state of one instance: exactly the components of 10_state.md R30. -/
structure Block where
  /-- SESSION (R32). -/
  session : SessionState
  /-- FIELD (R33). -/
  field : FramerField
  /-- PIDX (R34). -/
  pidx : Half
  /-- MAGIC (R35). -/
  magic : Half
  /-- CMD (R35). -/
  cmd : Byte
  /-- COMP (R35). -/
  comp : Byte
  /-- SIZE (R35). -/
  size : Half
  /-- CSUM_RX (R35). -/
  csumRx : Half
  /-- ACK (R35). -/
  ack : Byte
  /-- STAT (R35). -/
  stat : Byte
  /-- CSUM_ACC (R36). -/
  csumAcc : Half
  /-- PAL_LATCH (R37). -/
  palLatch : Byte
  /-- PBUF (R38). -/
  pbuf : List Byte
  /-- VRAM (R40). -/
  vram : List Byte
  /-- PARTS (R41). -/
  parts : List ImagePart
  /-- RASTER (R42): rows of stored values, or none. -/
  raster : Option (List (List Stored))
  /-- OUTBUF (R43). -/
  outbuf : List Byte
  /-- OUT_IDX (R43). -/
  outIdx : Word
  /-- IDLE_CNT (R44). -/
  idleCnt : Word
  /-- TRUNC (R45). -/
  trunc : Bool
  /-- RLE_BAD (R45). -/
  rleBad : Bool
  /-- SKIP_ANY (R45). -/
  skipAny : Bool
  /-- FATAL_KIND (R45). -/
  fatalKind : FatalKind
  /-- SKIPPED (R46). -/
  skipped : Word
  /-- PART_CNT (R46). -/
  partCnt : Word
  /-- ROWS_ACC (R46). -/
  rowsAcc : Word
  /-- VRAM_LEN (R46). -/
  vramLen : Word
  /-- STORE_USED (R46). -/
  storeUsed : Word
  /-- IMG_HEIGHT (R60). -/
  imgHeight : Word
  /-- PNG_LEN (R61). -/
  pngLen : Word
  /-- FAULT_INFO (R66). -/
  faultInfo : Word
  /-- CTRL.EN (R51). -/
  en : Bool
  /-- CTRL.STRICT (R51). -/
  strict : Bool
  /-- RESULT (R53). -/
  result : Word
  /-- EVENTS (R54): bit 0 DONE, bit 1 IMAGE, bit 2 FATAL. -/
  eventBits : BitVec 3
  /-- IRQ_EN (R55). -/
  irqEn : BitVec 3
  /-- IDLE_LIMIT (R56). -/
  idleLimit : Word
deriving DecidableEq, Repr

/-- A block with its surroundings, which are no state of the block (10_state.md R30): `exec` and `step` take this as their only
argument. What an event does to the block depends on the block, the configuration and the event alone
(`applyEvent_toBlock_congr`); in a clocked cycle the event includes the level that the disconnect input had before. -/
structure State extends Block where
  /-- The configuration of 00_scope.md R10 (log entry 4). -/
  params : Config.Params
  /-- The MODEL's own: the events that the agents have pending, in their order (log entry 1). -/
  pending : List Event
  /-- The MODEL's own: the register port's answer at the last event (log entry 12). -/
  csrAnswer : CsrAnswer
  /-- The MODEL's own: the disconnect input in the last clocked cycle (log entry 11). -/
  disconnectLevel : Bool
  /-- The MODEL's own: the working variables of 42_rle.md R240 (log entry 13). -/
  rle : RleUnit
deriving DecidableEq, Repr

/-- What stops the machine: nothing. 60_exceptions.md R412: the block never stops, hangs or needs a reset because of an input
byte, and every error is answered by an abort, a skip or an error response. -/
inductive Fault where
deriving DecidableEq, Repr

/-- What the model gives no meaning. -/
inductive Refusal where
  /-- Raised by an arm of `exec` for an instruction that the model does not reach. Safe: nothing is claimed about it. No arm
  raises it now. -/
  | notModelled (mnemonic : String)
deriving DecidableEq, Repr

/-- The three outcomes of one event or instruction. -/
abbrev Outcome := Host.Outcome State Fault Refusal

/-- The working variables at the start of rle_decompress (42_rle.md R240). -/
def RleUnit.empty : RleUnit := { out := [], bad := false }

/-- The block right after Reset, component by component (70_reset_and_hazards.md R451); the reset value of IDLE_LIMIT is a
parameter (00_scope.md R10). -/
def Block.atReset (idleLimitReset : Word) : Block :=
  { session := .idle, field := .magic0, pidx := 0#16
    magic := 0#16, cmd := 0#8, comp := 0#8, size := 0#16, csumRx := 0#16, ack := 0#8, stat := 0#8
    csumAcc := 0#16, palLatch := 0#8, pbuf := []
    vram := [], parts := [], raster := none, outbuf := [], outIdx := 0#32
    idleCnt := 0#32, trunc := false, rleBad := false, skipAny := false, fatalKind := .none
    skipped := 0#32, partCnt := 0#32, rowsAcc := 0#32, vramLen := 0#32, storeUsed := 0#32
    imgHeight := 0#32, pngLen := 0#32, faultInfo := 0#32
    en := false, strict := true, result := 0#32, eventBits := 0#3, irqEn := 0#3, idleLimit := idleLimitReset }

/-- The machine right after Reset (70_reset_and_hazards.md R451), with the recommended parameters (00_scope.md R10) and
nothing pending (log entries 1, 4, 11). -/
def State.reset : State :=
  { toBlock := Block.atReset Config.Params.recommended.idleLimitReset
    params := Config.Params.recommended, pending := [], csrAnswer := .atReset, disconnectLevel := false
    rle := RleUnit.empty }

end Sys2Proof.Machine
end

