-- ==== Sys2Proof/Machine/Operands.lean ====
section
/-! DEFINITION. The operands of the commands and codes (41_commands.md R220, 42_rle.md R241, R242) and the payload bytes that
the framer latches for them. -/

namespace Sys2Proof.Machine

/-- The palette byte of a PRINT payload: byte 2, or 0x00 where there is none (30_encoding.md R139). The framer latches it in
PAL_LATCH (40_framer.md R191), where PRINT reads it. -/
def paletteOperand (payload : List Byte) : Byte := payload.getD 2 0#8

/-- n_run = c[6:0] + 2 (42_rle.md R241). -/
def runLength (n : BitVec 7) : Nat := n.toNat + 2

/-- n_lit = c + 1 (42_rle.md R242). -/
def litLength (n : BitVec 7) : Nat := n.toNat + 1

/-- `MemRead(VRAM, i, 1)` (00_scope.md R14): byte i of VRAM, none past its end. -/
def memRead (s : State) (i : Nat) : Option Byte := s.vram[i]?

/-- The pixel rows that some tile data adds to ROWS_ACC: floor(len/40) (41_commands.md R227). -/
def tileRows (tiles : List Byte) : Nat := tiles.length / Config.rowBytes

end Sys2Proof.Machine
end

