-- ==== Sys2Proof/Machine/Flags.lean ====
section
/-! DEFINITION. The status bits: RESULT, EVENTS, irq, the views CTRL and STATUS, and the output ports that are functions of the
state (10_state.md R51 to R55, R68; 60_exceptions.md R417; 44_png.md R321, R323). -/

namespace Sys2Proof.Machine

/-- The codes of 10_state.md R32. -/
def SessionState.code : SessionState → Word
  | .idle => 0#32
  | .receiving => 1#32
  | .aborted => 2#32
  | .finalizing => 3#32
  | .emitting => 4#32

/-- The codes of 10_state.md R33. -/
def FramerField.code : FramerField → Word
  | .magic0 => 0#32
  | .magic1 => 1#32
  | .cmd => 2#32
  | .comp => 3#32
  | .size0 => 4#32
  | .size1 => 5#32
  | .payload => 6#32
  | .csum0 => 7#32
  | .csum1 => 8#32
  | .ack => 9#32
  | .status => 10#32

/-- RESULT.OUTCOME (10_state.md R53). -/
inductive SessionOutcome where
  | none
  | image
  | empty
  | desync
  | checksum
  | overflow
deriving DecidableEq, Repr

/-- The codes of RESULT.OUTCOME (10_state.md R53). -/
def SessionOutcome.code : SessionOutcome → Word
  | .none => 0#32
  | .image => 1#32
  | .empty => 2#32
  | .desync => 3#32
  | .checksum => 4#32
  | .overflow => 5#32

/-- The outcome that a fatal error gives its session (45_session.md R350, 60_exceptions.md R400). -/
def FatalKind.outcome : FatalKind → SessionOutcome
  | .none => .none
  | .desync => .desync
  | .checksum => .checksum
  | .overflow => .overflow

/-- A flag as a 32-bit value. -/
def bit (b : Bool) : Word := if b then 1#32 else 0#32

/-- RESULT as the Finalize step writes it (45_session.md R350): outcome | (TRUNC << 8) | (RLE_BAD << 9) | (SKIP_ANY << 10). -/
def resultWord (o : SessionOutcome) (trunc rleBad skipAny : Bool) : Word :=
  o.code ||| (bit trunc <<< 8) ||| (bit rleBad <<< 9) ||| (bit skipAny <<< 10)

/-- EVENTS bit 0 (10_state.md R54). -/
def evDone : BitVec 3 := 1#3
/-- EVENTS bit 1 (10_state.md R54). -/
def evImage : BitVec 3 := 2#3
/-- EVENTS bit 2 (10_state.md R54). -/
def evFatal : BitVec 3 := 4#3

/-- EVENTS bits set by the block (60_exceptions.md R415). -/
def raiseEvents (bits : BitVec 3) (s : State) : State := { s with eventBits := s.eventBits ||| bits }

/-- Write-1-to-clear (10_state.md R54). -/
def clearEvents (bits : BitVec 3) (s : State) : State := { s with eventBits := s.eventBits &&& ~~~bits }

/-- irq (60_exceptions.md R417): a level, (EVENTS & IRQ_EN) != 0. -/
def State.irq (s : State) : Bool := (s.eventBits &&& s.irqEn) != 0#3

/-- The value CTRL reads as (10_state.md R51): END and SRST read 0. -/
def State.ctrlWord (s : State) : Word := bit s.en ||| (bit s.strict <<< 1)

/-- MIDPKT (10_state.md R52). -/
def State.midPacket (s : State) : Bool := s.session == .receiving && s.field != .magic0

/-- The value STATUS reads as (10_state.md R52). -/
def State.statusWord (s : State) : Word :=
  s.session.code ||| (bit s.midPacket <<< 3) ||| (s.field.code <<< 4) ||| (bit (s.session == .emitting) <<< 8)

/-- in_ready (40_framer.md R181). -/
def State.inReady (s : State) : Bool :=
  s.en && (s.session == .idle || s.session == .receiving || s.session == .aborted)

/-- A session is open: the idle timer runs and end events count (45_session.md R342, R346). -/
def State.isOpen (s : State) : Bool := s.session == .receiving || s.session == .aborted

/-- out_valid (44_png.md R321). -/
def State.outValid (s : State) : Bool := s.session == .emitting

/-- out_data (44_png.md R321): OUTBUF[OUT_IDX] while EMITTING, else 0x00. -/
def State.outData (s : State) : Byte := if s.outValid then s.outbuf.getD s.outIdx.toNat 0#8 else 0#8

/-- out_last (44_png.md R323). -/
def State.outLast (s : State) : Bool := s.outValid && s.outIdx.toNat + 1 == s.pngLen.toNat

/-- csr_ack (10_state.md R68, 20_memory.md R110). -/
def State.csrAck (s : State) : Bool :=
  match s.csrAnswer with
  | .atReset => false
  | .quiet => false
  | .readData _ => true
  | .readError => false
  | .written => true
  | .writeError => false

/-- csr_err (10_state.md R68, 20_memory.md R110). -/
def State.csrErr (s : State) : Bool :=
  match s.csrAnswer with
  | .atReset => false
  | .quiet => false
  | .readData _ => false
  | .readError => true
  | .written => false
  | .writeError => true

/-- csr_rdata where the host may sample it: after Reset and at a read's answer. Otherwise none: every value is allowed there and
a model need not represent it (93_implementation_defined.md I21; log entry 12). -/
def State.csrRdata (s : State) : Option Word :=
  match s.csrAnswer with
  | .atReset => some 0#32
  | .quiet => none
  | .readData v => some v
  | .readError => some 0#32
  | .written => none
  | .writeError => none

end Sys2Proof.Machine
end

