-- ==== Sys2Proof/Machine/Ops.lean ====
section
/-! DEFINITION. The named operations that the rules share: the append to VRAM and its capacity check, the packet skip, taking a
fatal error (the abort) and the return from it, the session's start and end, the idle timer's check, Reset and soft reset. -/

namespace Sys2Proof.Machine

/-- The outcome of `o` followed by `f`. -/
def onNext (o : Outcome) (f : State → Outcome) : Outcome :=
  match o with
  | .next s => f s
  | .fault r => .fault r
  | .refused r => .refused r

/-- `sat32(v + 1)` (00_scope.md R12). -/
def satInc (w : Word) : Word := if w = BitVec.allOnes 32 then w else w + 1#32

/-- `raise Fatal(kind, info)`, the abort (60_exceptions.md R410): the block's trap entry. SKIPPED, SKIP_ANY, RLE_BAD, TRUNC and
IDLE_CNT are kept. -/
def raiseFatal (kind : FatalKind) (info : Word) (s : State) : State :=
  { s with
    fatalKind := kind, faultInfo := info, eventBits := s.eventBits ||| evFatal
    vram := [], parts := [], pbuf := []
    partCnt := 0#32, rowsAcc := 0#32, vramLen := 0#32, storeUsed := 0#32
    field := .magic0, session := .aborted }

/-- VRAM and PARTS are discarded at the Finalize step; the counters stay for the host (45_session.md R354). -/
def discardSession (s : State) : State := { s with vram := [], parts := [] }

/-- A session's end with no image (45_session.md R352, R353), and so the return from an abort (60_exceptions.md R413): RESULT
written, IMG_HEIGHT and PNG_LEN 0, the session data discarded, SESSION IDLE, EVENTS.DONE. -/
def finishWithoutImage (o : SessionOutcome) (s : State) : State :=
  { discardSession s with
    result := resultWord o s.trunc s.rleBad s.skipAny
    imgHeight := 0#32, pngLen := 0#32, session := .idle, eventBits := s.eventBits ||| evDone }

/-- `raise Skip` (40_framer.md R196). -/
def raiseSkip (s : State) : State := { s with skipped := satInc s.skipped, skipAny := true, pbuf := [] }

/-- append(d), the only write to VRAM that adds to it (41_commands.md R222). -/
def appendVram (d : List Byte) (s : State) : State :=
  { s with
    vram := s.vram ++ d
    vramLen := BitVec.ofNat 32 (s.vram.length + d.length)
    storeUsed := s.storeUsed + BitVec.ofNat 32 d.length }

/-- The capacity check passes: STORE_USED + len(d) is at most STORE_BYTES (41_commands.md R226). -/
def storeFits (d : List Byte) (s : State) : Bool :=
  decide (s.storeUsed.toNat + d.length ≤ s.params.storeBytes.toNat)

/-- check_store(d) and then append(d), of both FILLs (41_commands.md R223 to R226). FAULT_INFO is FILL's command code
(10_state.md R66; log entry 17). -/
def storeAppend (d : List Byte) (s : State) : State :=
  if storeFits d s then appendVram d s else raiseFatal .overflow (Config.cmdFill.setWidth 32) s

/-- ROWS_ACC + n. FREE VALUE where the sum leaves 32 bits: no rule states it (log entry 6). -/
def addRows (acc : Word) (n : Nat) : Word :=
  if acc.toNat + n < 4294967296 then BitVec.ofNat 32 (acc.toNat + n) else Config.rowsAccOverflow acc n

/-- Session start (45_session.md R340). EVENTS, IRQ_EN, CTRL and IDLE_LIMIT are not changed. -/
def sessionStart (s : State) : State :=
  { s with
    session := .receiving, field := .magic0, idleCnt := 0#32
    vram := [], parts := []
    skipped := 0#32, partCnt := 0#32, rowsAcc := 0#32, vramLen := 0#32, storeUsed := 0#32
    trunc := false, rleBad := false, skipAny := false, fatalKind := .none
    result := 0#32, imgHeight := 0#32, pngLen := 0#32, faultInfo := 0#32 }

/-- The framer at the end of a session (40_framer.md R200): a partial packet is discarded and TRUNC is set. -/
def closeFramer (s : State) : State :=
  if s.field = .magic0 then s else { s with trunc := true, pbuf := [], field := .magic0 }

/-- The end event (45_session.md R347 in RECEIVING, R348 in ABORTED, R349 elsewhere). -/
def endEvent (s : State) : State :=
  match s.session with
  | .idle => s
  | .receiving => { closeFramer s with session := .finalizing, idleCnt := 0#32 }
  | .aborted => { s with session := .finalizing, idleCnt := 0#32 }
  | .finalizing => s
  | .emitting => s

/-- The timeout's condition (45_session.md R344, R345). -/
def timedOut (s : State) : Bool := s.isOpen && s.idleLimit != 0#32 && s.idleLimit.ule s.idleCnt

/-- The timeout check (45_session.md R345). -/
def timeoutCheck (s : State) : State := if timedOut s then endEvent s else s

/-- Reset (70_reset_and_hazards.md R450, R451): every component of the block takes its reset value, every output is 0. The
configuration, the agents' pending events and the level of the disconnect input are not the block's state. -/
def hardReset (s : State) : State :=
  { s with toBlock := Block.atReset s.params.idleLimitReset, csrAnswer := .atReset, rle := RleUnit.empty }

/-- Soft reset (70_reset_and_hazards.md R452): as Reset, but EN and STRICT take the written values, and IDLE_LIMIT and IRQ_EN
are kept. -/
def softReset (en strict : Bool) (s : State) : State :=
  { hardReset s with
    en := en, strict := strict, idleLimit := s.idleLimit, irqEn := s.irqEn, csrAnswer := s.csrAnswer }

end Sys2Proof.Machine
end

