-- ==== Sys2Proof/Machine/Csr.lean ====
section
/-! DEFINITION. The register window (10_state.md R50 to R67, 20_memory.md R110). -/

namespace Sys2Proof.Machine

/-- The registers of 10_state.md R50. -/
inductive Reg where
  | ctrl
  | status
  | result
  | events
  | irqEn
  | idleLimit
  | skipped
  | parts
  | rowsAcc
  | imgHeight
  | pngLen
  | vramLen
  | storeUsed
  | capStore
  | capParts
  | faultInfo
deriving DecidableEq, Repr

/-- The offset of a register (10_state.md R50). -/
def Reg.offset : Reg → Byte
  | .ctrl => 0x00#8
  | .status => 0x04#8
  | .result => 0x08#8
  | .events => 0x0C#8
  | .irqEn => 0x10#8
  | .idleLimit => 0x14#8
  | .skipped => 0x18#8
  | .parts => 0x1C#8
  | .rowsAcc => 0x20#8
  | .imgHeight => 0x24#8
  | .pngLen => 0x28#8
  | .vramLen => 0x2C#8
  | .storeUsed => 0x30#8
  | .capStore => 0x34#8
  | .capParts => 0x38#8
  | .faultInfo => 0x3C#8

/-- The registers in the order of their offsets. -/
def allRegs : List Reg :=
  [.ctrl, .status, .result, .events, .irqEn, .idleLimit, .skipped, .parts, .rowsAcc, .imgHeight, .pngLen, .vramLen,
   .storeUsed, .capStore, .capParts, .faultInfo]

/-- The register at an offset, none at a reserved one (10_state.md R50, R67). -/
def regAt (offset : Byte) : Option Reg := allRegs.find? fun r => r.offset == offset

/-- An offset whose bits 1:0 are 00 (20_memory.md R106). -/
def aligned (offset : Byte) : Bool := offset.extractLsb' 0 2 == 0#2

/-- The value a register reads as (10_state.md R51 to R66). -/
def readReg (r : Reg) (s : State) : Word :=
  match r with
  | .ctrl => s.ctrlWord
  | .status => s.statusWord
  | .result => s.result
  | .events => s.eventBits.setWidth 32
  | .irqEn => s.irqEn.setWidth 32
  | .idleLimit => s.idleLimit
  | .skipped => s.skipped
  | .parts => s.partCnt
  | .rowsAcc => s.rowsAcc
  | .imgHeight => s.imgHeight
  | .pngLen => s.pngLen
  | .vramLen => s.vramLen
  | .storeUsed => s.storeUsed
  | .capStore => s.params.storeBytes
  | .capParts => s.params.maxParts
  | .faultInfo => s.faultInfo

/-- A write to CTRL (10_state.md R51): SRST resets with the new EN and STRICT and END is ignored; else EN and STRICT take the
written bits and END is an end event (45_session.md R346). -/
def writeCtrl (v : Word) (s : State) : State :=
  if v.getLsbD 3 then softReset (v.getLsbD 0) (v.getLsbD 1) s
  else if v.getLsbD 2 then endEvent { s with en := v.getLsbD 0, strict := v.getLsbD 1 }
  else { s with en := v.getLsbD 0, strict := v.getLsbD 1 }

/-- The effect of a write on a register (10_state.md R51 to R66): CTRL, EVENTS (write-1-to-clear), IRQ_EN, IDLE_LIMIT with its
timeout check (45_session.md R345); the others are read-only. -/
def writeReg (r : Reg) (v : Word) (s : State) : State :=
  match r with
  | .ctrl => writeCtrl v s
  | .status => s
  | .result => s
  | .events => clearEvents (v.extractLsb' 0 3) s
  | .irqEn => { s with irqEn := v.extractLsb' 0 3 }
  | .idleLimit => timeoutCheck { s with idleLimit := v }
  | .skipped => s
  | .parts => s
  | .rowsAcc => s
  | .imgHeight => s
  | .pngLen => s
  | .vramLen => s
  | .storeUsed => s
  | .capStore => s
  | .capParts => s
  | .faultInfo => s

/-- The value an offset reads as: 0 at a reserved one (10_state.md R67). -/
def readOffset (offset : Byte) (s : State) : Word :=
  match regAt offset with
  | some r => readReg r s
  | none => 0#32

/-- The effect of a write at an offset: none at a reserved one (10_state.md R67). -/
def writeOffset (offset : Byte) (v : Word) (s : State) : State :=
  match regAt offset with
  | some r => writeReg r v s
  | none => s

/-- CsrRead (20_memory.md R110): only the answer changes. -/
def csrReadEvent (offset : Byte) (s : State) : State :=
  if aligned offset then { s with csrAnswer := .readData (readOffset offset s) } else { s with csrAnswer := .readError }

/-- CsrWrite (20_memory.md R110). -/
def csrWriteEvent (offset : Byte) (v : Word) (s : State) : State :=
  if aligned offset then { writeOffset offset v s with csrAnswer := .written } else { s with csrAnswer := .writeError }

end Sys2Proof.Machine
end

