-- ==== Sys2Proof/Machine/Rle.lean ====
section
/-! DEFINITION. The RLE codes (42_rle.md): RUN and LIT act on the working variables d and bad of rle_decompress, and the
decompressor runs them code by code. -/

namespace Sys2Proof.Machine

/-- RLE.RUN (42_rle.md R241): d grows by a run of n + 2 bytes v; with no value byte, nothing is output and bad is set (R243). -/
def execRleRun (n : BitVec 7) (v : Option Byte) (s : State) : Outcome :=
  match v with
  | none => .next { s with rle := { s.rle with bad := true } }
  | some b => .next { s with rle := { s.rle with out := s.rle.out ++ List.replicate (runLength n) b } }

/-- RLE.LIT (42_rle.md R242): d grows by n + 1 literal bytes; with fewer left, by those, and bad is set (R244). -/
def execRleLit (n : BitVec 7) (bytes : List Byte) (s : State) : Outcome :=
  if bytes.length < litLength n then .next { s with rle := { out := s.rle.out ++ bytes, bad := true } }
  else .next { s with rle := { s.rle with out := s.rle.out ++ bytes.take (litLength n) } }

/-- One RLE code of a payload, executed by its meaning; a packet command is no code of a payload and never comes from
`decodeRle`. -/
def execCode (i : Instr) (s : State) : Outcome :=
  match i with
  | .init _ _ => .next s
  | .print _ _ => .next s
  | .fillRaw _ => .next s
  | .fillRle _ _ => .next s
  | .status _ _ => .next s
  | .other _ _ _ => .next s
  | .rleRun n v => execRleRun n v s
  | .rleLit n bytes => execRleLit n bytes s

/-- The loop of 42_rle.md R240: decode a code, execute it, stop at the payload's end or when bad is set. Every code takes at
least one byte, so `fuel` = the payload's length is enough. -/
def rleLoop : Nat → List Byte → State → Outcome
  | 0, _, s => .next s
  | fuel + 1, payload, s =>
    match decodeRle payload with
    | .reject _ => .next s
    | .ok i rest => onNext (execCode i s) fun t => if t.rle.bad then .next t else rleLoop fuel rest t

/-- rle_decompress(p) on the working variables, from d = [] and bad = 0 (42_rle.md R240). -/
def runDecompressor (payload : List Byte) (s : State) : Outcome :=
  rleLoop payload.length payload { s with rle := RleUnit.empty }

end Sys2Proof.Machine
end

