-- ==== Sys2Proof/Machine/Commands.lean ====
section
/-! DEFINITION. The packet commands (41_commands.md), each executed at the commit of its packet. -/

namespace Sys2Proof.Machine

/-- INIT (41_commands.md R221): VRAM <- [], VRAM_LEN <- 0. COMP and the payload are ignored. -/
def execInit (s : State) : Outcome := .next { s with vram := [], vramLen := 0#32 }

/-- PRINT (41_commands.md R227, R228): the part-count check, then the ImagePart (PAL_LATCH, VRAM) is recorded. -/
def execPrint (s : State) : Outcome :=
  if s.partCnt = s.params.maxParts then .next (raiseFatal .overflow (Config.cmdPrint.setWidth 32) s)
  else .next
    { s with
      parts := s.parts ++ [{ pal := s.palLatch, tiles := s.vram }]
      partCnt := s.partCnt + 1#32
      rowsAcc := addRows s.rowsAcc (tileRows s.vram) }

/-- FILL.RAW (41_commands.md R223): the payload verbatim. -/
def execFillRaw (payload : List Byte) (s : State) : Outcome := .next (storeAppend payload s)

/-- FILL.RLE (41_commands.md R224, R225): decompress, then RLE_BAD, then the capacity check, then the append. -/
def execFillRle (payload : List Byte) (s : State) : Outcome :=
  onNext (runDecompressor payload s) fun t =>
    .next (storeAppend t.rle.out { t with rleBad := t.rleBad || t.rle.bad, rle := RleUnit.empty })

/-- STATUS (41_commands.md R229): no state changes. -/
def execStatus (s : State) : Outcome := .next s

/-- OTHER (41_commands.md R230): no state changes. -/
def execOther (s : State) : Outcome := .next s

end Sys2Proof.Machine
end

