-- ==== Sys2Proof/Machine/Dispatch.lean ====
section
/-! DEFINITION. The dispatch of 30_encoding.md R154: one arm per constructor of `Instr`. -/

namespace Sys2Proof.Machine

def exec (i : Instr) (s : State) : Host.Outcome State Fault Refusal :=
  match i with
  | .init _ _ => Sys2Proof.Machine.execInit s
  | .print _ _ => Sys2Proof.Machine.execPrint s
  | .fillRaw payload => Sys2Proof.Machine.execFillRaw payload s
  | .fillRle _ payload => Sys2Proof.Machine.execFillRle payload s
  | .status _ _ => Sys2Proof.Machine.execStatus s
  | .other _ _ _ => Sys2Proof.Machine.execOther s
  | .rleRun n v => Sys2Proof.Machine.execRleRun n v s
  | .rleLit n bytes => Sys2Proof.Machine.execRleLit n bytes s

end Sys2Proof.Machine
end

