-- ==== Sys2Proof/Machine/Framer.lean ====
section
/-! DEFINITION. The packet framer (40_framer.md): one field rule per accepted byte, validation and commit at the STATUS byte. -/

namespace Sys2Proof.Machine

/-- CSUM_ACC <- (CSUM_ACC + b) mod 2^16 (40_framer.md R187 to R191). -/
def addSum (acc : Half) (b : Byte) : Half := acc + b.setWidth 16

/-- `zext_16(b)` (40_framer.md R185, R189, R193). -/
def low16 (b : Byte) : Half := b.setWidth 16

/-- `zext_16(b) << 8` (40_framer.md R186, R190, R193). -/
def high16 (b : Byte) : Half := b.setWidth 16 <<< 8

/-- MAGIC0 (40_framer.md R185). -/
def fieldMagic0 (b : Byte) (s : State) : State :=
  { s with
    magic := low16 b, csumAcc := 0#16, palLatch := 0#8, pbuf := [], pidx := 0#16
    cmd := 0#8, comp := 0#8, size := 0#16, csumRx := 0#16, ack := 0#8, stat := 0#8, field := .magic1 }

/-- MAGIC1 and the magic check (40_framer.md R186, 60_exceptions.md R401). -/
def fieldMagic1 (b : Byte) (s : State) : State :=
  let m := s.magic ||| high16 b
  if m = Config.magic then { s with magic := m, field := .cmd }
  else raiseFatal .desync (m.setWidth 32) { s with magic := m }

/-- CMD (40_framer.md R187). -/
def fieldCmd (b : Byte) (s : State) : State := { s with cmd := b, csumAcc := addSum s.csumAcc b, field := .comp }

/-- COMP (40_framer.md R188). -/
def fieldComp (b : Byte) (s : State) : State := { s with comp := b, csumAcc := addSum s.csumAcc b, field := .size0 }

/-- SIZE0 (40_framer.md R189). -/
def fieldSize0 (b : Byte) (s : State) : State :=
  { s with size := low16 b, csumAcc := addSum s.csumAcc b, field := .size1 }

/-- SIZE1 (40_framer.md R190). -/
def fieldSize1 (b : Byte) (s : State) : State :=
  let z := s.size ||| high16 b
  { s with
    size := z, csumAcc := addSum s.csumAcc b, pidx := 0#16
    field := if z = 0#16 then .csum0 else .payload }

/-- PAYLOAD (40_framer.md R191). -/
def fieldPayload (b : Byte) (s : State) : State :=
  { s with
    pbuf := s.pbuf ++ [b], csumAcc := addSum s.csumAcc b
    palLatch := if s.pidx = 2#16 then b else s.palLatch
    pidx := s.pidx + 1#16
    field := if s.pidx + 1#16 = s.size then .csum0 else .payload }

/-- CSUM0 (40_framer.md R193). -/
def fieldCsum0 (b : Byte) (s : State) : State := { s with csumRx := low16 b, field := .csum1 }

/-- CSUM1 (40_framer.md R193). -/
def fieldCsum1 (b : Byte) (s : State) : State := { s with csumRx := s.csumRx ||| high16 b, field := .ack }

/-- ACK (40_framer.md R194). -/
def fieldAck (b : Byte) (s : State) : State := { s with ack := b, field := .status }

/-- FAULT_INFO of a fatal checksum mismatch (40_framer.md R197): CSUM_ACC in bits 31:16, CSUM_RX in bits 15:0. -/
def checksumInfo (s : State) : Word := s.csumAcc ++ s.csumRx

/-- The instruction that the latches hold at the commit (40_framer.md R198, 30_encoding.md R154). -/
def latchedInstr (s : State) : Instr := decodeCommand s.cmd s.comp s.pbuf

/-- commit() (40_framer.md R198): the command executes, then PBUF is emptied. -/
def commit (s : State) : Outcome := onNext (exec (latchedInstr s) s) fun t => .next { t with pbuf := [] }

/-- STATUS and validation (40_framer.md R195): commit, fatal mismatch (R197) or skip (R196). -/
def fieldStatus (b : Byte) (s : State) : Outcome :=
  let s1 := { s with stat := b, field := .magic0 }
  if s.csumAcc = s.csumRx then commit s1
  else if b.getLsbD 0 && s.strict then .next (raiseFatal .checksum (checksumInfo s1) s1)
  else .next (raiseSkip s1)

/-- The rule of the current FIELD (40_framer.md R183, R184). -/
def fieldRule (b : Byte) (s : State) : Outcome :=
  match s.field with
  | .magic0 => .next (fieldMagic0 b s)
  | .magic1 => .next (fieldMagic1 b s)
  | .cmd => .next (fieldCmd b s)
  | .comp => .next (fieldComp b s)
  | .size0 => .next (fieldSize0 b s)
  | .size1 => .next (fieldSize1 b s)
  | .payload => .next (fieldPayload b s)
  | .csum0 => .next (fieldCsum0 b s)
  | .csum1 => .next (fieldCsum1 b s)
  | .ack => .next (fieldAck b s)
  | .status => fieldStatus b s

/-- ByteIn(b) (40_framer.md R183, R199; 45_session.md R343): the idle timer restarts; in IDLE the session starts first; in
ABORTED the byte is discarded. In FINALIZING and EMITTING no ByteIn is enabled (R181). -/
def byteInEvent (b : Byte) (s : State) : Outcome :=
  match s.session with
  | .idle => .next (fieldMagic0 b (sessionStart s))
  | .receiving => fieldRule b { s with idleCnt := 0#32 }
  | .aborted => .next { s with idleCnt := 0#32 }
  | .finalizing => .next s
  | .emitting => .next s

end Sys2Proof.Machine
end

