-- ==== Sys2Proof/Machine/Compositor.lean ====
section
/-! DEFINITION. The compositor and the palette lookup (43_compositor.md). -/

namespace Sys2Proof.Machine

/-- `roundup8` (00_scope.md R12). -/
def roundup8 (n : Nat) : Nat := 8 * ((n + 7) / 8)

/-- H (43_compositor.md R261). -/
def imageHeight (rowsAcc : Word) : Nat := roundup8 rowsAcc.toNat

/-- byte(k, j) (43_compositor.md R264): a byte past the part's data reads 0x00. -/
def tileByte (tiles : List Byte) (j : Nat) : Byte := tiles.getD j 0#8

/-- The raw index of pixel p of a tile line (43_compositor.md R266): lo[7-p] | (hi[7-p] << 1). -/
def rawIndex (lo hi : Byte) (p : Nat) : Stored := BitVec.ofBool (hi.getLsbD (7 - p)) ++ BitVec.ofBool (lo.getLsbD (7 - p))

/-- The palette lookup (43_compositor.md R267): 3 - ((pal >> (2r)) & 3). -/
def paletteLookup (pal : Byte) (r : Stored) : Stored := 3#2 - pal.extractLsb' (2 * r.toNat) 2

/-- The stored value of pixel p of line t of tile x of strip g of a part (43_compositor.md R265 to R267). -/
def pixelOf (part : ImagePart) (g x t p : Nat) : Stored :=
  let j := Config.stripBytes * g + Config.tileBytes * x + 2 * t
  paletteLookup part.pal (rawIndex (tileByte part.tiles j) (tileByte part.tiles (j + 1)) p)

/-- One pixel row of a strip: tile x's pixel p is column 8x + p (43_compositor.md R268). -/
def stripRow (part : ImagePart) (g t : Nat) : List Stored :=
  (List.range Config.tilesPerStrip).flatMap fun x =>
    (List.range Config.tileSide).map fun p => pixelOf part g x t p

/-- S_k, the number of strips of a part (43_compositor.md R262). -/
def stripCount (tiles : List Byte) : Nat := (tiles.length + (Config.stripBytes - 1)) / Config.stripBytes

/-- The rows of a part: its strips top to bottom, 8 rows each (43_compositor.md R262, R263). -/
def partRows (part : ImagePart) : List (List Stored) :=
  (List.range (stripCount part.tiles)).flatMap fun g =>
    (List.range Config.tileSide).map fun t => stripRow part g t

/-- The raster of height h (43_compositor.md R270): the strips of all parts stacked in recording order, rows with index h or
more dropped (R263, R268). -/
def compose (parts : List ImagePart) (h : Nat) : List (List Stored) := (parts.flatMap partRows).take h

end Sys2Proof.Machine
end

