-- ==== Sys2Proof/Machine/Inflate.lean ====
section
/-! DEFINITION. The decompression of deflate data, which gives 44_png.md R300 its meaning for compressors other than STORED.
The stored block is 30_encoding.md R151; the fixed and dynamic Huffman blocks are RFC 1951, which the spec names ("a standard
deflate/zlib compressor", 44_png.md R293) and does not spell out. PRESUMED (log entry 27). -/

namespace Sys2Proof.Machine

/-- Deflate data as they are read: the bits left of the current byte, least significant first, and the bytes after it. -/
structure BitStream where
  current : List Bool
  rest : List Byte
deriving DecidableEq, Repr

/-- A bound on the bits left, and so on the symbols left. -/
def BitStream.fuel (s : BitStream) : Nat := s.current.length + 8 * s.rest.length + 1

/-- The next bit. -/
def takeBit (s : BitStream) : Option (Bool × BitStream) :=
  match s.current with
  | b :: bs => some (b, { s with current := bs })
  | [] =>
    match s.rest with
    | [] => none
    | d :: ds => some (d.getLsbD 0, { current := (List.range 7).map fun k => d.getLsbD (k + 1), rest := ds })

/-- A number of `n` bits, the first the least significant. -/
def takeBits : Nat → BitStream → Option (Nat × BitStream)
  | 0, s => some (0, s)
  | n + 1, s => do
    let (b, s1) ← takeBit s
    let (v, s2) ← takeBits n s1
    some (2 * v + b.toNat, s2)

/-- `count` numbers of `n` bits each. -/
def takeMany (n : Nat) : Nat → BitStream → Option (List Nat × BitStream)
  | 0, s => some ([], s)
  | count + 1, s => do
    let (v, s1) ← takeBits n s
    let (vs, s2) ← takeMany n count s1
    some (v :: vs, s2)

/-! ### Canonical Huffman codes, given by the code length of each symbol (0: the symbol has no code) -/

/-- The code space used, in units of 2^-15. -/
def codeSpace (lens : List Nat) : Nat := (lens.map fun l => if l = 0 then 0 else 2 ^ (15 - l)).sum

/-- The code lengths make a complete code. -/
def completeCode (lens : List Nat) : Bool := codeSpace lens == 2 ^ 15

/-- The code lengths of a literal or distance code: complete, or at most one symbol, with a code of one bit. -/
def usableCode (lens : List Nat) : Bool :=
  completeCode lens || lens.filter (· != 0) == [1] || lens.filter (· != 0) == []

/-- Codes of one length are consecutive from `first` on, in the order of their symbols, and the first code of the next length is
twice the one after the last. `code` holds the bits read so far, the first the most significant. -/
def decodeFrom (lens : List Nat) : Nat → Nat → Nat → Nat → BitStream → Option (Nat × BitStream)
  | 0, _, _, _, _ => none
  | fuel + 1, len, code, first, s => do
    let (b, s1) ← takeBit s
    let code1 := 2 * code + b.toNat
    let first1 := 2 * first
    if code1 < first1 + lens.count len then
      let (_, symbol) ← (lens.zipIdx.filter fun p => p.1 == len)[code1 - first1]?
      some (symbol, s1)
    else decodeFrom lens fuel (len + 1) code1 (first1 + lens.count len) s1

/-- The next symbol; a code has 1 to 15 bits. -/
def decodeSymbol (lens : List Nat) (s : BitStream) : Option (Nat × BitStream) := decodeFrom lens 15 1 0 0 s

/-! ### The compressed blocks -/

/-- The extra bits and the first length of the length symbols 257 to 285. -/
def lengthTable : List (Nat × Nat) :=
  [(0, 3), (0, 4), (0, 5), (0, 6), (0, 7), (0, 8), (0, 9), (0, 10), (1, 11), (1, 13), (1, 15), (1, 17), (2, 19), (2, 23),
   (2, 27), (2, 31), (3, 35), (3, 43), (3, 51), (3, 59), (4, 67), (4, 83), (4, 99), (4, 115), (5, 131), (5, 163), (5, 195),
   (5, 227), (0, 258)]

/-- The extra bits and the first distance of the distance symbols 0 to 29. -/
def distanceTable : List (Nat × Nat) :=
  [(0, 1), (0, 2), (0, 3), (0, 4), (1, 5), (1, 7), (2, 9), (2, 13), (3, 17), (3, 25), (4, 33), (4, 49), (5, 65), (5, 97),
   (6, 129), (6, 193), (7, 257), (7, 385), (8, 513), (8, 769), (9, 1025), (9, 1537), (10, 2049), (10, 3073), (11, 4097),
   (11, 6145), (12, 8193), (12, 12289), (13, 16385), (13, 24577)]

/-- A number that a table's entry starts and its extra bits complete. -/
def takeEntry (table : List (Nat × Nat)) (symbol : Nat) (s : BitStream) : Option (Nat × BitStream) := do
  let (extra, base) ← table[symbol]?
  let (v, s1) ← takeBits extra s
  some (base + v, s1)

/-- A match: `n` bytes, each the byte `distance` back in the output. -/
def copyMatch (distance : Nat) : Nat → List Byte → List Byte
  | 0, out => out
  | n + 1, out => copyMatch distance n (out ++ [out.getD (out.length - distance) 0#8])

/-- The symbols of a compressed block up to its end symbol 256: literals, and matches within the output and the window. -/
def inflateSymbols (window : Nat) (literals distances : List Nat) :
    Nat → BitStream → List Byte → Option (List Byte × BitStream)
  | 0, _, _ => none
  | fuel + 1, s, out => do
    let (symbol, s1) ← decodeSymbol literals s
    if symbol < 256 then inflateSymbols window literals distances fuel s1 (out ++ [BitVec.ofNat 8 symbol])
    else if symbol = 256 then some (out, s1)
    else
      let (length, s2) ← takeEntry lengthTable (symbol - 257) s1
      let (code, s3) ← decodeSymbol distances s2
      let (distance, s4) ← takeEntry distanceTable code s3
      if distance ≤ out.length ∧ distance ≤ window then
        inflateSymbols window literals distances fuel s4 (copyMatch distance length out)
      else none

/-- The literal code of a fixed block. -/
def fixedLiterals : List Nat := List.replicate 144 8 ++ List.replicate 112 9 ++ List.replicate 24 7 ++ List.replicate 8 8

/-- The distance code of a fixed block. -/
def fixedDistances : List Nat := List.replicate 32 5

/-- The order in which a dynamic block gives the lengths of its code length code. -/
def codeLengthOrder : List Nat := [16, 17, 18, 0, 8, 7, 9, 6, 10, 5, 11, 4, 12, 3, 13, 2, 14, 1, 15]

/-- The code lengths of a dynamic block up to `total` of them: a length, or a repetition of the last one (16) or of 0 (17, 18). -/
def readLengths (codeLengths : List Nat) (total : Nat) : Nat → BitStream → List Nat → Option (List Nat × BitStream)
  | 0, _, _ => none
  | fuel + 1, s, lens =>
    if total < lens.length then none
    else if lens.length = total then some (lens, s)
    else do
      let (symbol, s1) ← decodeSymbol codeLengths s
      if symbol < 16 then readLengths codeLengths total fuel s1 (lens ++ [symbol])
      else if symbol = 16 then
        let last ← lens.getLast?
        let (n, s2) ← takeBits 2 s1
        readLengths codeLengths total fuel s2 (lens ++ List.replicate (3 + n) last)
      else if symbol = 17 then
        let (n, s2) ← takeBits 3 s1
        readLengths codeLengths total fuel s2 (lens ++ List.replicate (3 + n) 0)
      else
        let (n, s2) ← takeBits 7 s1
        readLengths codeLengths total fuel s2 (lens ++ List.replicate (11 + n) 0)

/-- The header of a dynamic block: its literal and distance codes. -/
def readCodes (s : BitStream) : Option ((List Nat × List Nat) × BitStream) := do
  let (hlit, s1) ← takeBits 5 s
  let (hdist, s2) ← takeBits 5 s1
  let (hclen, s3) ← takeBits 4 s2
  let (given, s4) ← takeMany 3 (hclen + 4) s3
  let codeLengths := (List.range 19).map fun symbol => given.getD (codeLengthOrder.idxOf symbol) 0
  let total := hlit + 257 + (hdist + 1)
  let (lens, s5) ← readLengths codeLengths total (total + 1) s4 []
  let literals := lens.take (hlit + 257)
  let distances := lens.drop (hlit + 257)
  if hlit + 257 ≤ 286 ∧ completeCode codeLengths = true ∧ usableCode literals = true ∧ usableCode distances = true then
    some ((literals, distances), s5)
  else none

/-- A stored block after its first three bits (30_encoding.md R151): the rest of their byte is skipped. -/
def inflateStored (s : BitStream) (out : List Byte) : Option (List Byte × BitStream) :=
  match s.rest with
  | l0 :: l1 :: n0 :: n1 :: body =>
    let len := l0.toNat + 256 * l1.toNat
    if len + (n0.toNat + 256 * n1.toNat) = 65535 ∧ len ≤ body.length then
      some (out ++ body.take len, { current := [], rest := body.drop len })
    else none
  | _ => none

/-- One block after its BFINAL bit, by its type BTYPE. -/
def inflateBlock (window : Nat) (s : BitStream) (out : List Byte) : Option (List Byte × BitStream) := do
  let (type, s1) ← takeBits 2 s
  if type = 0 then inflateStored s1 out
  else if type = 1 then inflateSymbols window fixedLiterals fixedDistances s1.fuel s1 out
  else if type = 2 then
    let (codes, s2) ← readCodes s1
    inflateSymbols window codes.1 codes.2 s2.fuel s2 out
  else none

/-- The blocks up to the one with BFINAL; a block has at least three bits, so `fuel` = the bits' number is enough. -/
def inflateBlocks (window : Nat) : Nat → BitStream → List Byte → Option (List Byte × BitStream)
  | 0, _, _ => none
  | fuel + 1, s, out => do
    let (final, s1) ← takeBit s
    let (out1, s2) ← inflateBlock window s1 out
    if final then some (out1, s2) else inflateBlocks window fuel s2 out1

/-- The data of a deflate stream and the bytes after its last block's last byte. -/
def inflate (window : Nat) (bytes : List Byte) : Option (List Byte × List Byte) := do
  let s : BitStream := { current := [], rest := bytes }
  let (out, s1) ← inflateBlocks window s.fuel s []
  some (out, s1.rest)

end Sys2Proof.Machine
end

