-- ==== Sys2Proof/Machine/Png.lean ====
section
/-! DEFINITION. The PNG builder (44_png.md): scanlines, Adler-32, stored deflate, other compressors, CRC-32, chunks, the PNG byte
sequence. -/

namespace Sys2Proof.Machine

/-- `BE32` (00_scope.md R13). -/
def be32 (w : Word) : List Byte :=
  [w.extractLsb' 24 8, w.extractLsb' 16 8, w.extractLsb' 8 8, w.extractLsb' 0 8]

/-- The uncompressed IDAT data R (44_png.md R291): each row behind a filter byte 0x00. -/
def scanlines (rows : List (List Stored)) : List Byte :=
  rows.flatMap fun row => 0#8 :: row.map (fun v => v.setWidth 8)

/-- The loop of 44_png.md R294 on its two sums. -/
def adlerLoop (a b : Nat) : List Byte → Nat × Nat
  | [] => (a, b)
  | d :: ds => adlerLoop ((a + d.toNat) % 65521) ((b + (a + d.toNat) % 65521) % 65521) ds

/-- adler32 (44_png.md R294): (b << 16) | a. -/
def adler32 (bytes : List Byte) : Word :=
  let r := adlerLoop 1 0 bytes
  (BitVec.ofNat 32 r.2 <<< 16) ||| BitVec.ofNat 32 r.1

/-- One bit step of CRC-32 (44_png.md R301). -/
def crcBit (c : Word) : Word := if c.getLsbD 0 then (c >>> 1) ^^^ 0xEDB88320#32 else c >>> 1

/-- The byte step of CRC-32 (44_png.md R301, R302). -/
def crcByte (c : Word) (d : Byte) : Word :=
  crcBit (crcBit (crcBit (crcBit (crcBit (crcBit (crcBit (crcBit (c ^^^ d.setWidth 32))))))))

/-- The register C of 44_png.md R302 after some bytes. -/
def crcFeed (c : Word) : List Byte → Word
  | [] => c
  | d :: ds => crcFeed (crcByte c d) ds

/-- crc32 (44_png.md R301). -/
def crc32 (bytes : List Byte) : Word := crcFeed 0xFFFFFFFF#32 bytes ^^^ 0xFFFFFFFF#32

/-- One stored block (44_png.md R297, 30_encoding.md R151): BFINAL, LEN, NLEN, the data. -/
def storedBlock (final : Bool) (data : List Byte) : List Byte :=
  let len := BitVec.ofNat 16 data.length
  let nlen := len ^^^ 0xFFFF#16
  [if final then 0x01#8 else 0x00#8, lo8 len, hi8 len, lo8 nlen, hi8 nlen] ++ data

/-- The stored blocks of some data (44_png.md R295, R296): full blocks of `blockMax` bytes and a last block of 1 to `blockMax`;
`fuel` = the data's length is enough. -/
def storedBlocks (blockMax : Nat) : Nat → List Byte → List Byte
  | 0, _ => []
  | fuel + 1, data =>
    if data.isEmpty then []
    else storedBlock (data.drop blockMax).isEmpty (data.take blockMax) ++ storedBlocks blockMax fuel (data.drop blockMax)

/-- The zlib stream of the STORED compressor (44_png.md R293, R298). -/
def zlibStored (blockMax : Nat) (r : List Byte) : List Byte :=
  [0x78#8, 0x01#8] ++ storedBlocks blockMax r.length r ++ be32 (adler32 r)

/-- The decompression of one complete zlib stream (30_encoding.md R150): CMF with method 8 and a window of at most 32 KiB, FLG
with the right check bits and no preset dictionary, deflate data, the Adler-32 of what they decompress to, and nothing after it
(log entry 27). -/
def zlibDecompress (bytes : List Byte) : Option (List Byte) :=
  match bytes with
  | cmf :: flg :: body =>
    if cmf.toNat % 16 = 8 ∧ cmf.toNat / 16 ≤ 7 ∧ (cmf.toNat * 256 + flg.toNat) % 31 = 0 ∧ flg.toNat / 32 % 2 = 0 then
      match inflate (2 ^ (cmf.toNat / 16 + 8)) body with
      | none => none
      | some (data, trailer) => if trailer = be32 (adler32 data) then some data else none
    else none
  | _ => none

/-- A zlib stream of some bytes in the largest stored blocks, of no bytes too. -/
def plainStream (r : List Byte) : List Byte :=
  if r.isEmpty then [0x78#8, 0x01#8] ++ storedBlock true [] ++ be32 (adler32 []) else zlibStored 65535 r

/-- f(r) for the other compressor `which` (44_png.md R300). FREE VALUE within the contract of R300 (log entry 5): what
`Config.deflateOther` proposes where that is one complete zlib stream of exactly r; any other proposal is no compressor's answer
and gives way to a stream that is one. -/
def otherStream (which : Nat) (r : List Byte) : List Byte :=
  if zlibDecompress (Config.deflateOther which r) = some r then Config.deflateOther which r else plainStream r

/-- Z, the IDAT data (44_png.md R293, R300). -/
def zlibStream (p : Config.Params) (r : List Byte) : List Byte :=
  match p.deflate with
  | .stored => zlibStored p.storedBlockMax.toNat r
  | .other which => otherStream which r

/-- nb = ceil(N / B) (44_png.md R296). -/
def blockCount (blockMax n : Nat) : Nat := (n + (blockMax - 1)) / blockMax

/-- len(Z), the "zlib length" of 45_session.md R350: for STORED the closed form of 44_png.md R299 on N = 161 H. -/
def zlibLength (p : Config.Params) (h : Nat) (rows : List (List Stored)) : Nat :=
  match p.deflate with
  | .stored =>
    2 + 5 * blockCount p.storedBlockMax.toNat ((Config.width + 1) * h) + (Config.width + 1) * h + 4
  | .other which => (otherStream which (scanlines rows)).length

/-- chunk(type, data) (44_png.md R303). -/
def chunk (type data : List Byte) : List Byte :=
  be32 (BitVec.ofNat 32 data.length) ++ type ++ data ++ be32 (crc32 (type ++ data))

/-- The PNG signature (44_png.md R304). -/
def pngSignature : List Byte := [0x89#8, 0x50#8, 0x4E#8, 0x47#8, 0x0D#8, 0x0A#8, 0x1A#8, 0x0A#8]

/-- The type bytes of 30_encoding.md R147. -/
def typeIhdr : List Byte := [0x49#8, 0x48#8, 0x44#8, 0x52#8]
/-- PLTE (30_encoding.md R147). -/
def typePlte : List Byte := [0x50#8, 0x4C#8, 0x54#8, 0x45#8]
/-- IDAT (30_encoding.md R147). -/
def typeIdat : List Byte := [0x49#8, 0x44#8, 0x41#8, 0x54#8]
/-- IEND (30_encoding.md R147). -/
def typeIend : List Byte := [0x49#8, 0x45#8, 0x4E#8, 0x44#8]

/-- The height as a 32-bit value. FREE VALUE for a height of 2^32, which only another compressor than STORED lets through
(log entry 7). -/
def heightWord (h : Nat) : Word := if h < 4294967296 then BitVec.ofNat 32 h else Config.heightOverflow h

/-- IHDR data (44_png.md R305). -/
def ihdrData (h : Nat) : List Byte :=
  be32 (BitVec.ofNat 32 Config.width) ++ be32 (heightWord h) ++ [0x08#8, 0x03#8, 0x00#8, 0x00#8, 0x00#8]

/-- PLTE data (44_png.md R306): entry k is (85k, 85k, 85k). -/
def plteData : List Byte :=
  (List.range 4).flatMap fun k => List.replicate 3 (BitVec.ofNat 8 (85 * k))

/-- The PNG byte sequence (44_png.md R309) of some rows and their height. -/
def pngBytes (p : Config.Params) (h : Nat) (rows : List (List Stored)) : List Byte :=
  pngSignature ++ chunk typeIhdr (ihdrData h) ++ chunk typePlte plteData
    ++ chunk typeIdat (zlibStream p (scanlines rows)) ++ chunk typeIend []

end Sys2Proof.Machine
end

