-- ==== Sys2Proof/Machine/Session.lean ====
section
/-! DEFINITION. The session controller (45_session.md): Tick, Disconnect, the Finalize step, OutPop. -/

namespace Sys2Proof.Machine

/-- Tick (45_session.md R342): counted while a session is open, then the timeout is checked. -/
def tickEvent (s : State) : State :=
  if s.isOpen then timeoutCheck { s with idleCnt := satInc s.idleCnt } else s

/-- Disconnect (45_session.md R346). -/
def disconnectEvent (s : State) : State := endEvent s

/-- The outcome that the Finalize step decides (45_session.md R350). DESIGN CHOICE (log entry 28): the size test is len(Z) alone,
as R350 writes it, so that a height above 2^31 - 1, which 44_png.md R311 calls non-conforming and only another compressor than
STORED lets through, has outcome IMAGE too. -/
def finalOutcome (s : State) : SessionOutcome :=
  if s.fatalKind ≠ .none then s.fatalKind.outcome
  else if s.partCnt = 0#32 then .empty
  else if imageHeight s.rowsAcc = 0 then .empty
  else if Config.chunkLimit < zlibLength s.params (imageHeight s.rowsAcc) (compose s.parts (imageHeight s.rowsAcc)) then .overflow
  else .image

/-- Outcome IMAGE (45_session.md R351, 44_png.md R320): the raster and the PNG are made, the session data discarded, emission
begins. -/
def beginEmission (s : State) : State :=
  let h := imageHeight s.rowsAcc
  let rows := compose s.parts h
  let png := pngBytes s.params h rows
  { discardSession s with
    result := resultWord .image s.trunc s.rleBad s.skipAny
    raster := some rows, imgHeight := heightWord h
    outbuf := png, pngLen := BitVec.ofNat 32 png.length, outIdx := 0#32, session := .emitting }

/-- The image-size OVERFLOW of the Finalize step (45_session.md R350, 60_exceptions.md R406): FAULT_INFO 0, EVENTS.FATAL, no
abort; FATAL_KIND records it as row E6 of 60_exceptions.md R400 says (log entry 9). -/
def sizeOverflow (s : State) : State :=
  finishWithoutImage .overflow
    { s with fatalKind := .overflow, faultInfo := 0#32, eventBits := s.eventBits ||| evFatal }

/-- The Finalize step (45_session.md R350 to R354). -/
def finalizeEvent (s : State) : State :=
  if s.fatalKind ≠ .none then finishWithoutImage s.fatalKind.outcome s
  else
    match finalOutcome s with
    | .none => finishWithoutImage .none s
    | .image => beginEmission s
    | .empty => finishWithoutImage .empty s
    | .desync => finishWithoutImage .desync s
    | .checksum => finishWithoutImage .checksum s
    | .overflow => sizeOverflow s

/-- The end of the emission (45_session.md R355). -/
def endEmission (s : State) : State :=
  { s with
    session := .idle, outbuf := [], outIdx := 0#32, raster := none
    eventBits := s.eventBits ||| evDone ||| evImage }

/-- OutPop (44_png.md R322): the host takes a byte; after the last one the emission ends. -/
def outPopEvent (s : State) : State :=
  if s.outIdx + 1#32 = s.pngLen then endEmission s else { s with outIdx := s.outIdx + 1#32 }

end Sys2Proof.Machine
end

