-- ==== Sys2Proof/Machine/Events.lean ====
section
/-! DEFINITION. The events of 00_scope.md R6: which are enabled, what each does, and the order of the events that a clocked
implementation sees in one cycle (60_exceptions.md R421). -/

namespace Sys2Proof.Machine

/-- An event that may happen now: ByteIn where in_ready = 1 (40_framer.md R181), OutPop while EMITTING (44_png.md R322),
Finalize in FINALIZING (45_session.md R350), every other event always. -/
def enabled (e : Event) (s : State) : Bool :=
  match e with
  | .byteIn _ => s.inReady
  | .tick => true
  | .disconnect => true
  | .csrRead _ => true
  | .csrWrite _ _ => true
  | .outPop => s.outValid
  | .reset => true
  | .finalize => s.session == .finalizing
  | .cycle _ => true

/-- A register access that is a soft reset: a write of CTRL with SRST = 1 (10_state.md R51). -/
def CsrRequest.isSoftReset : CsrRequest → Bool
  | .read _ => false
  | .write offset v => offset == Reg.offset .ctrl && v.getLsbD 3

/-- The byte that a cycle's ByteIn event accepts, if one happens (40_framer.md R180). -/
def acceptedByte (c : CycleIn) (s : State) : Option Byte := if s.inReady then c.inData else none

/-- Steps (1) and (2) of 60_exceptions.md R421: rst, then a CsrWrite with SRST = 1. -/
def cycleResets (c : CycleIn) (s : State) : State :=
  let s1 := if c.rst then hardReset s else s
  match c.csr with
  | none => s1
  | some (.read _) => s1
  | some (.write offset v) => if (CsrRequest.write offset v).isSoftReset then csrWriteEvent offset v s1 else s1

/-- Step (3) of 60_exceptions.md R421: ByteIn, if one happens. -/
def cycleByte (accepted : Option Byte) (s : State) : Outcome :=
  match accepted with
  | none => .next s
  | some b => byteInEvent b s

/-- Steps (4) to (6) of 60_exceptions.md R421: a Tick that no ByteIn displaces, with its timeout check, and a rising edge of
disconnect (45_session.md R343, R346). -/
def cycleTimers (c : CycleIn) (byteTaken : Bool) (s : State) : State :=
  let s1 := if c.tick && !byteTaken then tickEvent s else s
  if c.disconnect && !s.disconnectLevel then disconnectEvent s1 else s1

/-- Step (7) of 60_exceptions.md R421: any other CsrWrite. -/
def cycleWrite (c : CycleIn) (s : State) : State :=
  match c.csr with
  | none => s
  | some (.read _) => s
  | some (.write offset v) => if (CsrRequest.write offset v).isSoftReset then s else csrWriteEvent offset v s

/-- Steps (8) and (9) of 60_exceptions.md R421: OutPop, then Finalize where the implementation takes it. -/
def cycleOutput (c : CycleIn) (s : State) : State :=
  let s1 := if c.outReady && s.outValid then outPopEvent s else s
  if c.finalizeNow && s1.session == .finalizing then finalizeEvent s1 else s1

/-- A CsrRead returns the state after the whole cycle (60_exceptions.md R421). -/
def cycleRead (c : CycleIn) (s : State) : State :=
  match c.csr with
  | none => s
  | some (.read offset) => csrReadEvent offset s
  | some (.write _ _) => s

/-- The EVENTS bits raised by steps (3) to (6) win over the clear of step (7) (60_exceptions.md R416): those steps run with
EVENTS = 0, so that what they raise is known, and no step reads EVENTS. -/
def withRaised (old : BitVec 3) (f : State → State) (s : State) : State :=
  raiseEvents s.eventBits (f (raiseEvents old s))

/-- One cycle (60_exceptions.md R421). -/
def cycleEvent (c : CycleIn) (s : State) : Outcome :=
  let s2 := cycleResets c s
  let accepted := acceptedByte c s2
  onNext (cycleByte accepted { s2 with eventBits := 0#3 }) fun s3 =>
    let s6 := cycleTimers c accepted.isSome s3
    let s7 := withRaised s2.eventBits (cycleWrite c) s6
    .next { cycleRead c (cycleOutput c s7) with disconnectLevel := c.disconnect }

/-- The effect of one event (00_scope.md R6). -/
def applyEvent (e : Event) (s : State) : Outcome :=
  match e with
  | .byteIn b => byteInEvent b s
  | .tick => .next (tickEvent s)
  | .disconnect => .next (disconnectEvent s)
  | .csrRead offset => .next (csrReadEvent offset s)
  | .csrWrite offset v => .next (csrWriteEvent offset v s)
  | .outPop => .next (outPopEvent s)
  | .reset => .next (hardReset s)
  | .finalize => .next (finalizeEvent s)
  | .cycle c => cycleEvent c s

/-- The first enabled event of a list, and the list without it: an event that is not enabled waits (a held byte, 00_scope.md R8)
and keeps its place. -/
def takeEnabled (s : State) : List Event → Option (Event × List Event)
  | [] => none
  | e :: es =>
    if enabled e s then some (e, es)
    else
      match takeEnabled s es with
      | none => none
      | some (e', rest) => some (e', e :: rest)

/-- The state in which an event acts: it is no longer pending, and the register port is quiet unless the event is an access. -/
def beginEvent (rest : List Event) (s : State) : State := { s with pending := rest, csrAnswer := .quiet }

/-- The next event: the first enabled one pending; with none, Finalize where it is enabled (it is taken after finitely many
events, 70_reset_and_hazards.md R470), else nothing happens (log entries 1 to 3). -/
def nextEvent (s : State) : Outcome :=
  match takeEnabled s s.pending with
  | some (e, rest) => applyEvent e (beginEvent rest s)
  | none => if s.session = .finalizing then .next (finalizeEvent (beginEvent s.pending s)) else .next s

/-- The framer at the STATUS byte of a packet with a matching checksum: what `withFetchWord` needs for the next step to commit
the packet (40_framer.md R195). -/
def atStatusByte (cmd comp : Byte) (payload : List Byte) (s : State) : State :=
  let size := BitVec.ofNat 16 payload.length
  let csum := packetChecksum cmd comp size payload
  { s with
    en := true, session := .receiving, field := .status
    magic := Config.magic, cmd := cmd, comp := comp, size := size, pidx := size, pbuf := payload
    palLatch := paletteOperand payload, csumAcc := csum, csumRx := csum, ack := 0#8
    pending := .byteIn 0#8 :: s.pending }

/-- The state whose next event commits the instruction of a table word: a packet word as the packet itself, an RLE code as the
payload of a FILL.RLE packet (COMP = 0x01) (log entry 15). -/
def placeTableWord (nbits w : Nat) (s : State) : State :=
  match tableWordBytes nbits w with
  | (.packet, bytes) => atStatusByte (bytes.getD 2 0#8) (bytes.getD 3 0#8) [] s
  | (.rle, bytes) => atStatusByte Config.cmdFill 0x01#8 bytes s

end Sys2Proof.Machine
end

