-- ==== Sys2Proof/Machine/Step.lean ====
section
/-! DEFINITION. One step: the next event (00_scope.md R6, R7), and where the host places an instruction. -/

namespace Sys2Proof.Machine

/-- One step: the next event of the instance happens. -/
def step (s : State) : Host.Outcome State Fault Refusal := nextEvent s

/-- `s` with the instruction of a table word stored where the next step runs it (log entry 15). -/
def State.withFetchWord (s : State) (nbits w : Nat) : State := placeTableWord nbits w s

end Sys2Proof.Machine
end

