-- ==== Sys2Proof/Safety.lean ====
section
/-! DEFINITION. The terms that the statements use: what a good state is (the invariants of the framer, the idle timer, the
session memories and the output), and a second, independent reading of the decompressor, the compositor and the PNG format (but
for the zlib stream, which `Machine.zlibDecompress` reads). -/

namespace Sys2Proof.Safety

open Sys2Proof.Machine

/-! ### Good states -/

/-- The framer's invariant. Inside a packet a session is open for receiving, PIDX counts PBUF (10_state.md R38), PAL_LATCH is the
payload's palette byte (R37), CSUM_ACC is the sum over what has arrived (40_framer.md R201), and the latches of the fields still
to come hold what 40_framer.md R185 left. -/
def FramerInv (s : State) : Prop :=
  s.field ≠ .magic0 →
    s.session = .receiving ∧ s.pbuf.length = s.pidx.toNat ∧ s.palLatch = paletteOperand s.pbuf ∧
    s.csumAcc = packetChecksum s.cmd s.comp s.size s.pbuf ∧
    (s.field = .magic1 → s.magic.toNat < 256) ∧ (s.field ≠ .magic1 → s.magic = Config.magic) ∧
    match s.field with
    | .magic0 => True
    | .magic1 => s.cmd = 0#8 ∧ s.comp = 0#8 ∧ s.size = 0#16 ∧ s.pidx = 0#16
    | .cmd => s.cmd = 0#8 ∧ s.comp = 0#8 ∧ s.size = 0#16 ∧ s.pidx = 0#16
    | .comp => s.comp = 0#8 ∧ s.size = 0#16 ∧ s.pidx = 0#16
    | .size0 => s.size = 0#16 ∧ s.pidx = 0#16
    | .size1 => s.size.toNat < 256 ∧ s.pidx = 0#16
    | .payload => s.pidx.toNat < s.size.toNat
    | .csum0 => s.pidx = s.size
    | .csum1 => s.pidx = s.size ∧ s.csumRx.toNat < 256
    | .ack => s.pidx = s.size
    | .status => s.pidx = s.size

/-- The idle timer's invariant: IDLE_CNT is 0 with no open session (45_session.md R340, R347, R348), and in an open session it
stays below a nonzero IDLE_LIMIT (R345). -/
def TimerInv (s : State) : Prop :=
  (s.isOpen = false → s.idleCnt = 0#32) ∧
  (s.isOpen = true → s.idleLimit ≠ 0#32 → s.idleCnt.toNat < s.idleLimit.toNat)

/-- ROWS_ACC's exact sum over some parts (10_state.md R46). -/
def totalRows (parts : List ImagePart) : Nat := (parts.map fun p => tileRows p.tiles).sum

/-- The session memories agree with their counters, and the counters with the capacities (10_state.md R46, R62;
41_commands.md R226, R228). -/
def MemoryAgrees (s : State) : Prop :=
  s.vramLen.toNat = s.vram.length ∧ s.vram.length ≤ s.storeUsed.toNat ∧
  s.storeUsed.toNat ≤ s.params.storeBytes.toNat ∧
  s.partCnt.toNat = s.parts.length ∧ s.partCnt.toNat ≤ s.params.maxParts.toNat ∧
  (totalRows s.parts < 4294967296 → s.rowsAcc.toNat = totalRows s.parts)

/-- Nothing of a session is held (10_state.md R40, R41). -/
def MemoryEmpty (s : State) : Prop := s.vram = [] ∧ s.parts = []

/-- The session memories' invariant, by session state; a fatal error has emptied them (60_exceptions.md R410), and the
decompressor's working variables are empty between events. -/
def MemoryInv (s : State) : Prop :=
  s.rle = RleUnit.empty ∧ s.skipAny = (s.skipped != 0#32) ∧
  match s.session with
  | .idle => MemoryEmpty s
  | .receiving => s.fatalKind = .none ∧ MemoryAgrees s
  | .aborted => s.fatalKind ≠ .none ∧ MemoryEmpty s ∧ MemoryAgrees s
  | .finalizing => (s.fatalKind = .none ∨ MemoryEmpty s) ∧ MemoryAgrees s
  | .emitting => s.fatalKind = .none ∧ MemoryEmpty s

/-- Nothing is held for the host: RASTER is none and OUTBUF empty (10_state.md R42, R43). -/
def OutputEmpty (s : State) : Prop := s.raster = none ∧ s.outbuf = [] ∧ s.outIdx = 0#32

/-- What a session whose image is being emitted holds: a raster of IMG_HEIGHT rows of 160 stored values, its PNG as OUTBUF,
PNG_LEN its length, and a byte still to take (10_state.md R42, R43, R60, R61; 44_png.md R322). -/
def OutputHeld (s : State) : Prop :=
  s.pngLen.toNat = s.outbuf.length ∧ s.outIdx.toNat < s.pngLen.toNat ∧
  ∃ rows h, s.raster = some rows ∧ rows.length = h ∧ 0 < h ∧ (∀ row ∈ rows, row.length = Config.width) ∧
    s.imgHeight = heightWord h ∧ s.outbuf = pngBytes s.params h rows

/-- The output's invariant (10_state.md R42, R43): something is held exactly while EMITTING. Before the Finalize step RESULT,
IMG_HEIGHT and PNG_LEN are what session start left (R53, R60, R61). -/
def OutputInv (s : State) : Prop :=
  match s.session with
  | .idle => OutputEmpty s
  | .receiving => OutputEmpty s ∧ s.result = 0#32 ∧ s.imgHeight = 0#32 ∧ s.pngLen = 0#32
  | .aborted => OutputEmpty s ∧ s.result = 0#32 ∧ s.imgHeight = 0#32 ∧ s.pngLen = 0#32
  | .finalizing => OutputEmpty s ∧ s.result = 0#32 ∧ s.imgHeight = 0#32 ∧ s.pngLen = 0#32
  | .emitting => OutputHeld s

/-- Every invariant, with parameters in the ranges of 00_scope.md R10. -/
def Inv (s : State) : Prop :=
  s.params.inRange = true ∧ FramerInv s ∧ TimerInv s ∧ MemoryInv s ∧ OutputInv s

/-- `k` steps, stopping at the first fault or refusal: what `Host.Core.run` does with this machine. -/
def run : Nat → State → Outcome
  | 0, s => .next s
  | k + 1, s => onNext (Sys2Proof.Machine.step s) (run k)

/-- A Reset, or a register write that is a soft reset (70_reset_and_hazards.md R450, R452). -/
def isReset : Event → Bool
  | .reset => true
  | .csrWrite offset v => (CsrRequest.write offset v).isSoftReset
  | _ => false

/-- A clocked cycle, which may merge several events of 00_scope.md R6. -/
def isCycle : Event → Bool
  | .cycle _ => true
  | _ => false

/-- A register write that may be an end event (45_session.md R345, R346): CTRL with END and without SRST, or a nonzero IDLE_LIMIT. -/
def mayEndSession (offset : Byte) (v : Word) : Bool :=
  (offset == 0x00#8 && v.getLsbD 2 && !v.getLsbD 3) || (offset == 0x14#8 && v != 0#32)

/-- The transitions of 45_session.md R341, each with the event that may bring it about; a state may also stay as it is. -/
def transitionBy (e : Event) : SessionState → SessionState → Bool
  | .idle, .idle => true
  | .receiving, .receiving => true
  | .aborted, .aborted => true
  | .finalizing, .finalizing => true
  | .emitting, .emitting => true
  | .idle, .receiving => match e with | .byteIn _ => true | _ => false
  | .receiving, .aborted => match e with | .byteIn _ => true | _ => false
  | .receiving, .finalizing => match e with | .tick => true | .disconnect => true | .csrWrite offset v => mayEndSession offset v | _ => false
  | .aborted, .finalizing => match e with | .tick => true | .disconnect => true | .csrWrite offset v => mayEndSession offset v | _ => false
  | .finalizing, .emitting => match e with | .finalize => true | _ => false
  | .finalizing, .idle => match e with | .finalize => true | _ => isReset e
  | .emitting, .idle => match e with | .outPop => true | _ => isReset e
  | .receiving, .idle => isReset e
  | .aborted, .idle => isReset e
  | _, _ => false

/-- The next event of a state (00_scope.md R6): the first enabled one pending, else Finalize where it is enabled. -/
def nextEventOf (s : State) : Option Event :=
  match takeEnabled s s.pending with
  | some (e, _) => some e
  | none => if s.session = .finalizing then some .finalize else none

/-- The state right before the commit of a packet whose checksum matches (40_framer.md R185 to R195): the latches hold its
fields, and the framer is back at MAGIC0. -/
def framedState (cmd comp : Byte) (payload : List Byte) (ack stat : Byte) (s : State) : State :=
  let size := BitVec.ofNat 16 payload.length
  let csum := packetChecksum cmd comp size payload
  { s with
    field := .magic0, magic := Config.magic, cmd := cmd, comp := comp, size := size, csumRx := csum, ack := ack, stat := stat
    csumAcc := csum, palLatch := paletteOperand payload, pbuf := payload, pidx := size, idleCnt := 0#32
    csrAnswer := .quiet }

/-- The operands that a packet command's latches hold: CMD, COMP and the payload; an RLE code has no packet. -/
def packetOperands : Instr → Option (Byte × Byte × List Byte)
  | .init comp payload => some (Config.cmdInit, comp, payload)
  | .print comp payload => some (Config.cmdPrint, comp, payload)
  | .fillRaw payload => some (Config.cmdFill, 0#8, payload)
  | .fillRle comp payload => some (Config.cmdFill, comp, payload)
  | .status comp payload => some (Config.cmdStatus, comp, payload)
  | .other cmd comp payload => some (cmd, comp, payload)
  | .rleRun _ _ => none
  | .rleLit _ _ => none

/-- The bytes among some pending events, in order. -/
def bytesOf : List Event → List Byte
  | [] => []
  | .byteIn b :: es => b :: bytesOf es
  | _ :: es => bytesOf es

/-- An event of a session's inside that ends nothing while the timeout is disabled: a byte, a Tick or a register read. -/
def isQuiet : Event → Bool
  | .byteIn _ => true
  | .tick => true
  | .csrRead _ => true
  | _ => false

/-! ### The decompressor, read a second time -/

/-- 42_rle.md R240 to R244 in terms of numbers: `fuel` = the payload's length is enough. -/
def decompressFrom : Nat → List Byte → List Byte → List Byte × Bool
  | 0, _, d => (d, false)
  | _ + 1, [], d => (d, false)
  | fuel + 1, c :: rest, d =>
    if 128 ≤ c.toNat then
      match rest with
      | [] => (d, true)
      | v :: tail => decompressFrom fuel tail (d ++ List.replicate (c.toNat - 128 + 2) v)
    else if rest.length < c.toNat + 1 then (d ++ rest, true)
    else decompressFrom fuel (rest.drop (c.toNat + 1)) (d ++ rest.take (c.toNat + 1))

/-- rle_decompress(p) = (d, bad) (42_rle.md R240). -/
def decompress (payload : List Byte) : List Byte × Bool := decompressFrom payload.length payload []

/-- The bytes that an RLE code stands for (30_encoding.md R141, R142); a packet command stands for none. -/
def codeOutput : Instr → List Byte
  | .rleRun n (some v) => List.replicate (n.toNat + 2) v
  | .rleLit _ bytes => bytes
  | _ => []

/-! ### The compositor, read a second time -/

/-- Bit `k` of a number. -/
def bitOf (n k : Nat) : Nat := n / 2 ^ k % 2

/-- 43_compositor.md R265 to R267 in terms of numbers: the value of pixel p of line t of tile x of strip g of a part. -/
def pixelValue (part : ImagePart) (g x t p : Nat) : Nat :=
  let lo := (part.tiles.getD (320 * g + 16 * x + 2 * t) 0#8).toNat
  let hi := (part.tiles.getD (320 * g + 16 * x + 2 * t + 1) 0#8).toNat
  let r := bitOf lo (7 - p) + 2 * bitOf hi (7 - p)
  3 - part.pal.toNat / 4 ^ r % 4

/-- The cell form of 43_compositor.md R270: the part that strip number g falls in, and the cell's value there. -/
def cellValue : List ImagePart → Nat → Nat → Nat → Option Nat
  | [], _, _, _ => none
  | part :: parts, g, x, t =>
    let strips := (part.tiles.length + 319) / 320
    if g < strips then some (pixelValue part g (x / 8) t (x % 8)) else cellValue parts (g - strips) x t

/-! ### The PNG, read back -/

/-- A big-endian 32-bit number and what follows it. -/
def readBe32 : List Byte → Option (Nat × List Byte)
  | a :: b :: c :: d :: rest => some (((a.toNat * 256 + b.toNat) * 256 + c.toNat) * 256 + d.toNat, rest)
  | _ => none

/-- A chunk (30_encoding.md R147): its type, its data and what follows; none if it is cut short or its CRC-32 is wrong. -/
def readChunk (bytes : List Byte) : Option (List Byte × List Byte × List Byte) :=
  match readBe32 bytes with
  | none => none
  | some (len, body) =>
    let type := body.take 4
    let data := (body.drop 4).take len
    match readBe32 (body.drop (4 + len)) with
    | none => none
    | some (crc, rest) =>
      if data.length = len ∧ crc = (crc32 (type ++ data)).toNat then some (type, data, rest) else none

/-- `h` scanlines of `w` indices, each behind a filter byte 0 (44_png.md R291). -/
def readScanlines (w : Nat) : Nat → List Byte → Option (List (List Byte))
  | 0, bytes => if bytes = [] then some [] else none
  | h + 1, bytes =>
    match bytes with
    | filter :: body =>
      if filter = 0#8 ∧ w ≤ body.length then
        match readScanlines w h (body.drop w) with
        | none => none
        | some rows => some (body.take w :: rows)
      else none
    | [] => none

/-- What a decoder gets from a PNG: the size, the palette and the index of every cell. -/
structure Picture where
  width : Nat
  height : Nat
  palette : List Byte
  rows : List (List Byte)
deriving DecidableEq, Repr

/-- A decoder of 8-bit indexed PNGs with one IDAT chunk (44_png.md R303 to R309), whose zlib stream may be any that
`zlibDecompress` reads: stored, fixed and dynamic blocks (R300). -/
def readPng (bytes : List Byte) : Option Picture :=
  if bytes.take 8 ≠ [0x89#8, 0x50#8, 0x4E#8, 0x47#8, 0x0D#8, 0x0A#8, 0x1A#8, 0x0A#8] then none
  else
    match readChunk (bytes.drop 8) with
    | none => none
    | some (ihdrType, ihdr, afterIhdr) =>
      match readChunk afterIhdr with
      | none => none
      | some (plteType, plte, afterPlte) =>
        match readChunk afterPlte with
        | none => none
        | some (idatType, idat, afterIdat) =>
          if ihdrType = [0x49#8, 0x48#8, 0x44#8, 0x52#8] ∧ plteType = [0x50#8, 0x4C#8, 0x54#8, 0x45#8] ∧
              idatType = [0x49#8, 0x44#8, 0x41#8, 0x54#8] ∧
              readChunk afterIdat = some ([0x49#8, 0x45#8, 0x4E#8, 0x44#8], [], []) ∧
              ihdr.drop 8 = [8#8, 3#8, 0#8, 0#8, 0#8] ∧ plte.length % 3 = 0 then
            match readBe32 ihdr, readBe32 (ihdr.drop 4), zlibDecompress idat with
            | some (w, _), some (h, _), some raw =>
              match readScanlines w h raw with
              | none => none
              | some rows => some { width := w, height := h, palette := plte, rows := rows }
            | _, _, _ => none
          else none

end Sys2Proof.Safety
end

