-- ==== Sys2Proof/Certificates/Slice0/Obligations.lean ====
section
/-! DEFINITION. The statements about the machine, made from the spec's numbered rules. `exec` is the meaning of a command or
code, `step` the next event, `run k` is `k` steps. Which event is next stands in the field `pending`, and what the register port
answers in `csrAnswer`: both are the model's own form, not the spec's (log entries 1 and 12), and so are `params` (log entry 4),
`disconnectLevel` (11) and `rle` (13); no rule is cited for what a statement says about those five fields. -/

open Sys2Proof Sys2Proof.Machine Sys2Proof.Safety

/-! ### Encoding -/

/-- Decoding what the encoder writes gives the instruction and the bytes after it, whatever ACK and STATUS are
(30_encoding.md R130, R137, R138, R141, R142, R154). That an RLE code cut by the payload's end (42_rle.md R243, R244) is a
well-formed form of its instruction, with nothing after it, is the MODEL's choice (log entry 26, DESIGN CHOICE). -/
def Obligations.DecodeOfEncodeGivesInstructionAndRest : Prop :=
  ∀ (i : Instr) (ack stat : Byte) (rest : List Byte),
    i.wellFormed = true → (i.complete = true ∨ rest = []) →
    decode i.codeSet (encodeWith ack stat i ++ rest) = .ok i rest

/-- Whatever decodes was encoded: every byte of a packet but ACK and STATUS, and every byte of an RLE code, is fixed by the
decoded instruction, which is well formed. That this includes codes cut by the payload's end (42_rle.md R243, R244), well formed
and with nothing after them (`complete` or `rest = []`), is the MODEL's choice (log entry 26, DESIGN CHOICE). -/
def Obligations.DecodedBytesAreAnEncoding : Prop :=
  ∀ (set : CodeSet) (bytes rest : List Byte) (i : Instr), decode set bytes = .ok i rest →
    i.codeSet = set ∧ i.wellFormed = true ∧ (i.complete = true ∨ rest = []) ∧
      ∃ ack stat : Byte, bytes = encodeWith ack stat i ++ rest

/-- Any magic but 0x3388 is rejected by its value (30_encoding.md R132), and every control byte is a code (R140). -/
def Obligations.OnlyMagicOpensAPacketAndEveryControlByteIsACode : Prop :=
  (∀ (m0 m1 : Byte) (rest : List Byte), ¬(m0 = 0x88#8 ∧ m1 = 0x33#8) →
    ∃ m : Half, m.toNat = m0.toNat + 256 * m1.toNat ∧ decodePacket (m0 :: m1 :: rest) = .reject (.badMagic m)) ∧
  (∀ (c : Byte) (rest : List Byte), ∃ i more, decodeRle (c :: rest) = .ok i more ∧
    ((128 ≤ c.toNat ∧ ∃ v, i = .rleRun (BitVec.ofNat 7 (c.toNat - 128)) v) ∨
     (c.toNat < 128 ∧ ∃ bytes, i = .rleLit (BitVec.ofNat 7 c.toNat) bytes)))

/-- A few packets and codes of 95_test_vectors.md, byte for byte, decode to the instructions they stand for. The last two are the
cut codes of L2.3 (42_rle.md R243, R244); that they are instructions, a RUN without a value byte and a LIT with fewer bytes, is
the MODEL's choice (log entry 26, DESIGN CHOICE). -/
def Obligations.WordsOfTheSpecDecode : Prop :=
  decodePacket [0x88#8, 0x33#8, 0x01#8, 0x00#8, 0x00#8, 0x00#8, 0x01#8, 0x00#8, 0x00#8, 0x00#8] = .ok (.init 0#8 []) [] ∧
  decodePacket [0x88#8, 0x33#8, 0x02#8, 0x00#8, 0x04#8, 0x00#8, 0x01#8, 0x13#8, 0xE4#8, 0x40#8, 0x3E#8, 0x01#8, 0x00#8, 0x00#8]
    = .ok (.print 0#8 [0x01#8, 0x13#8, 0xE4#8, 0x40#8]) [] ∧
  decodePacket [0x88#8, 0x33#8, 0x04#8, 0x00#8, 0x03#8, 0x00#8, 0x01#8, 0x02#8, 0x03#8, 0x0D#8, 0x00#8, 0x00#8, 0x01#8]
    = .ok (.fillRaw [0x01#8, 0x02#8, 0x03#8]) [] ∧
  decodePacket [0x88#8, 0x33#8, 0x04#8, 0x01#8, 0x03#8, 0x00#8, 0x81#8, 0xFF#8, 0x85#8, 0x0D#8, 0x02#8, 0x00#8, 0x00#8]
    = .ok (.fillRle 1#8 [0x81#8, 0xFF#8, 0x85#8]) [] ∧
  decodePacket [0x88#8, 0x33#8, 0x0F#8, 0x00#8, 0x00#8, 0x00#8, 0x0F#8, 0x00#8, 0x00#8, 0x00#8] = .ok (.status 0#8 []) [] ∧
  decodePacket [0x88#8, 0x33#8, 0x08#8, 0x00#8, 0x03#8, 0x00#8, 0x01#8, 0x02#8, 0x03#8, 0x11#8, 0x00#8, 0x00#8, 0x00#8]
    = .ok (.other 8#8 0#8 [0x01#8, 0x02#8, 0x03#8]) [] ∧
  decodeRle [0x82#8, 0x41#8, 0x01#8, 0x42#8, 0x43#8] = .ok (.rleRun 2#7 (some 0x41#8)) [0x01#8, 0x42#8, 0x43#8] ∧
  decodeRle [0x01#8, 0x42#8, 0x43#8] = .ok (.rleLit 1#7 [0x42#8, 0x43#8]) [] ∧
  decodeRle [0x85#8] = .ok (.rleRun 5#7 none) [] ∧
  decodeRle [0x03#8, 0x11#8, 0x22#8] = .ok (.rleLit 3#7 [0x11#8, 0x22#8]) []

/-! ### Commands and codes: what each completes with, and where it aborts -/

/-- CMD 0x01 is INIT whatever COMP and the payload are; INIT completes in every state: VRAM and VRAM_LEN are emptied and nothing
else changes (41_commands.md R221). -/
def Obligations.InitEmptiesVramOnly : Prop :=
  ∀ (comp : Byte) (payload : List Byte) (s : State),
    decodeCommand 0x01#8 comp payload = .init comp payload ∧
    exec (.init comp payload) s = .next { s with vram := [], vramLen := 0#32 }

/-- FILL.RAW completes where its payload fits the store: the payload is appended verbatim, VRAM_LEN and STORE_USED follow,
nothing else changes (41_commands.md R222, R223, R226). -/
def Obligations.FillRawAppendsPayload : Prop :=
  ∀ (payload : List Byte) (s : State), s.storeUsed.toNat + payload.length ≤ s.params.storeBytes.toNat →
    exec (.fillRaw payload) s = .next
      { s with
        vram := s.vram ++ payload
        vramLen := BitVec.ofNat 32 (s.vram ++ payload).length
        storeUsed := BitVec.ofNat 32 (s.storeUsed.toNat + payload.length) }

/-- FILL.RLE completes where its output fits the store: with (d, bad) the decompression of the payload (42_rle.md R240 to R244
read as numbers), d is appended and RLE_BAD set if bad (41_commands.md R224). -/
def Obligations.FillRleAppendsDecompressedPayload : Prop :=
  ∀ (comp : Byte) (payload : List Byte) (s : State),
    s.storeUsed.toNat + (decompress payload).1.length ≤ s.params.storeBytes.toNat →
    exec (.fillRle comp payload) s = .next
      { s with
        rleBad := s.rleBad || (decompress payload).2
        vram := s.vram ++ (decompress payload).1
        vramLen := BitVec.ofNat 32 (s.vram ++ (decompress payload).1).length
        storeUsed := BitVec.ofNat 32 (s.storeUsed.toNat + (decompress payload).1.length)
        rle := RleUnit.empty }

/-- PRINT completes below MAX_PARTS: it records (PAL_LATCH, VRAM) and counts it; ROWS_ACC grows by floor(len(VRAM)/40) wherever
the sum fits 32 bits; nothing else changes (41_commands.md R227). -/
def Obligations.PrintRecordsPart : Prop :=
  ∀ (comp : Byte) (payload : List Byte) (s : State), s.partCnt ≠ s.params.maxParts →
    ∃ rows : Word,
      exec (.print comp payload) s = .next
        { s with
          parts := s.parts ++ [{ pal := s.palLatch, tiles := s.vram }]
          partCnt := s.partCnt + 1#32
          rowsAcc := rows } ∧
      (s.rowsAcc.toNat + s.vram.length / 40 < 4294967296 → rows.toNat = s.rowsAcc.toNat + s.vram.length / 40)

/-- CMD 0x0F is STATUS and every CMD but 0x01, 0x02, 0x04, 0x0F is OTHER; both complete in every state and change nothing
(41_commands.md R229, R230). -/
def Obligations.StatusAndOtherChangeNothing : Prop :=
  ∀ (cmd comp : Byte) (payload : List Byte) (s : State),
    decodeCommand 0x0F#8 comp payload = .status comp payload ∧
    (cmd ∉ [0x01#8, 0x02#8, 0x04#8, 0x0F#8] → decodeCommand cmd comp payload = .other cmd comp payload) ∧
    exec (.status comp payload) s = .next s ∧ exec (.other cmd comp payload) s = .next s

/-- RLE.RUN completes in every state: with a value byte the output d grows by n + 2 copies of it, without one only bad is set
(42_rle.md R241, R243). -/
def Obligations.RunRepeatsItsValue : Prop :=
  ∀ (n : BitVec 7) (v : Byte) (s : State),
    exec (.rleRun n (some v)) s = .next { s with rle := { s.rle with out := s.rle.out ++ List.replicate (n.toNat + 2) v } } ∧
    exec (.rleRun n none) s = .next { s with rle := { s.rle with bad := true } }

/-- RLE.LIT completes in every state: a whole span of n + 1 bytes is copied, a span cut by the payload's end is copied as far as
it goes and bad is set (42_rle.md R242, R244). -/
def Obligations.LiteralSpanIsCopied : Prop :=
  ∀ (n : BitVec 7) (bytes : List Byte) (s : State),
    (bytes.length = n.toNat + 1 →
      exec (.rleLit n bytes) s = .next { s with rle := { s.rle with out := s.rle.out ++ bytes } }) ∧
    (bytes.length < n.toNat + 1 →
      exec (.rleLit n bytes) s = .next { s with rle := { out := s.rle.out ++ bytes, bad := true } })

/-- A FILL whose output does not fit the store takes the abort with kind OVERFLOW and FAULT_INFO 4 (41_commands.md R225, R226;
60_exceptions.md R406, R410): nothing is appended, the session data are discarded, and a malformation found before stays
recorded. -/
def Obligations.FillBeyondStoreAborts : Prop :=
  ∀ (comp : Byte) (payload : List Byte) (s : State),
    (s.params.storeBytes.toNat < s.storeUsed.toNat + payload.length →
      exec (.fillRaw payload) s = .next
        { s with
          fatalKind := .overflow, faultInfo := 4#32, eventBits := s.eventBits ||| 4#3
          vram := [], parts := [], pbuf := []
          partCnt := 0#32, rowsAcc := 0#32, vramLen := 0#32, storeUsed := 0#32
          field := .magic0, session := .aborted }) ∧
    (s.params.storeBytes.toNat < s.storeUsed.toNat + (decompress payload).1.length →
      exec (.fillRle comp payload) s = .next
        { s with
          rleBad := s.rleBad || (decompress payload).2
          fatalKind := .overflow, faultInfo := 4#32, eventBits := s.eventBits ||| 4#3
          vram := [], parts := [], pbuf := []
          partCnt := 0#32, rowsAcc := 0#32, vramLen := 0#32, storeUsed := 0#32
          field := .magic0, session := .aborted
          rle := RleUnit.empty })

/-- A PRINT that finds MAX_PARTS parts records nothing and takes the abort with kind OVERFLOW and FAULT_INFO 2
(41_commands.md R228; 60_exceptions.md R406, R410). -/
def Obligations.PrintBeyondPartLimitAborts : Prop :=
  ∀ (comp : Byte) (payload : List Byte) (s : State), s.partCnt = s.params.maxParts →
    exec (.print comp payload) s = .next
      { s with
        fatalKind := .overflow, faultInfo := 2#32, eventBits := s.eventBits ||| 4#3
        vram := [], parts := [], pbuf := []
        partCnt := 0#32, rowsAcc := 0#32, vramLen := 0#32, storeUsed := 0#32
        field := .magic0, session := .aborted }

/-- The frame of every command and code: none touches the packet latches, the idle timer, the host's configuration, RESULT or
the output; the framer cursor, FATAL_KIND, FAULT_INFO, EVENTS and PBUF change only by an abort (41_commands.md R220, 10_state.md
R39). -/
def Obligations.CommandsChangeOnlySessionMemories : Prop :=
  ∀ (i : Instr) (s t : State), exec i s = .next t →
    (t.pidx = s.pidx ∧ t.magic = s.magic ∧ t.cmd = s.cmd ∧ t.comp = s.comp ∧ t.size = s.size ∧ t.csumRx = s.csumRx ∧
      t.ack = s.ack ∧ t.stat = s.stat ∧ t.csumAcc = s.csumAcc ∧ t.palLatch = s.palLatch) ∧
    (t.raster = s.raster ∧ t.outbuf = s.outbuf ∧ t.outIdx = s.outIdx ∧ t.result = s.result ∧ t.imgHeight = s.imgHeight ∧
      t.pngLen = s.pngLen) ∧
    (t.idleCnt = s.idleCnt ∧ t.trunc = s.trunc ∧ t.skipAny = s.skipAny ∧ t.skipped = s.skipped ∧ t.en = s.en ∧
      t.strict = s.strict ∧ t.irqEn = s.irqEn ∧ t.idleLimit = s.idleLimit) ∧
    (t.params = s.params ∧ t.pending = s.pending ∧ t.csrAnswer = s.csrAnswer ∧ t.disconnectLevel = s.disconnectLevel) ∧
    ((t.session = s.session ∧ t.field = s.field ∧ t.fatalKind = s.fatalKind ∧ t.faultInfo = s.faultInfo ∧
        t.eventBits = s.eventBits ∧ t.pbuf = s.pbuf) ∨
      (t.session = .aborted ∧ t.field = .magic0 ∧ t.fatalKind = .overflow ∧ t.eventBits = s.eventBits ||| 4#3 ∧
        t.pbuf = [] ∧ t.vram = [] ∧ t.parts = []))

/-- VRAM byte by byte (00_scope.md R14, 20_memory.md R118, R119): a FILL that fits leaves every byte below the old end and
stores its output from there on; PRINT, STATUS, OTHER and the RLE codes leave every byte; INIT leaves none. -/
def Obligations.VramBytesOutsideTheAppendAreKept : Prop :=
  ∀ (s t : State) (comp cmd : Byte) (payload : List Byte) (n : BitVec 7) (v : Option Byte),
    (s.storeUsed.toNat + payload.length ≤ s.params.storeBytes.toNat → exec (.fillRaw payload) s = .next t →
      (∀ a, a < s.vram.length → memRead t a = memRead s a) ∧ ∀ k, memRead t (s.vram.length + k) = payload[k]?) ∧
    (s.storeUsed.toNat + (decompress payload).1.length ≤ s.params.storeBytes.toNat →
      exec (.fillRle comp payload) s = .next t →
      (∀ a, a < s.vram.length → memRead t a = memRead s a) ∧
        ∀ k, memRead t (s.vram.length + k) = (decompress payload).1[k]?) ∧
    (s.partCnt ≠ s.params.maxParts → exec (.print comp payload) s = .next t → ∀ a, memRead t a = memRead s a) ∧
    (exec (.status comp payload) s = .next t ∨ exec (.other cmd comp payload) s = .next t ∨
      exec (.rleRun n v) s = .next t ∨ exec (.rleLit n payload) s = .next t → ∀ a, memRead t a = memRead s a) ∧
    (exec (.init comp payload) s = .next t → ∀ a, memRead t a = none)

/-! ### The decompressor -/

/-- Round trip (42_rle.md R246): a FILL.RLE whose payload is any sequence of whole RLE codes appends exactly the bytes that the
codes stand for, and RLE_BAD is not set by it. -/
def Obligations.RleCodesDecompressToTheirBytes : Prop :=
  ∀ (comp : Byte) (codes : List Instr) (s : State),
    (∀ i ∈ codes, i.codeSet = .rle ∧ i.wellFormed = true ∧ i.complete = true) →
    s.storeUsed.toNat + (codes.flatMap codeOutput).length ≤ s.params.storeBytes.toNat →
    ∃ t, exec (.fillRle comp (codes.flatMap encode)) s = .next t ∧
      t.vram = s.vram ++ codes.flatMap codeOutput ∧ t.rleBad = s.rleBad ∧
      t.storeUsed.toNat = s.storeUsed.toNat + (codes.flatMap codeOutput).length

/-- The bound of 42_rle.md R245 on the machine: with n the payload's length, the decompressor's output and what a FILL.RLE adds to
VRAM are at most 129 x ceil(n / 2) bytes long; so where the store has that much room the FILL.RLE completes without an abort
(41_commands.md R224, R226). -/
def Obligations.DecompressedLengthIsBounded : Prop :=
  ∀ (comp : Byte) (payload : List Byte) (s : State),
    (∃ u : RleUnit, runDecompressor payload s = .next { s with rle := u } ∧ u.out.length ≤ 129 * ((payload.length + 1) / 2)) ∧
    (∀ t, exec (.fillRle comp payload) s = .next t → t.vram.length ≤ s.vram.length + 129 * ((payload.length + 1) / 2)) ∧
    (s.storeUsed.toNat + 129 * ((payload.length + 1) / 2) ≤ s.params.storeBytes.toNat →
      ∃ t, exec (.fillRle comp payload) s = .next t ∧ t.session = s.session ∧ t.fatalKind = s.fatalKind ∧
        t.vram.take s.vram.length = s.vram ∧
        t.storeUsed.toNat ≤ s.storeUsed.toNat + 129 * ((payload.length + 1) / 2))

/-! ### The framer -/

/-- THE STEP RUNS THE DECODED INSTRUCTION (40_framer.md R195, R198; 41_commands.md R231). At the STATUS byte of a packet whose
checksum matches, the step is `exec` of the instruction that CMD, COMP and the payload decode to, in the state where the byte
is latched, the cursor is back at MAGIC0 and the idle timer restarted; PBUF is emptied after it. Only a payload that SIZE can
count makes a packet, and then the instruction is well formed. -/
def Obligations.StepRunsTheLatchedInstruction : Prop :=
  ∀ (b : Byte) (rest : List Event) (s : State),
    s.en = true → s.session = .receiving → s.field = .status → s.csumAcc = s.csumRx → s.pending = .byteIn b :: rest →
    (s.pbuf.length < 65536 → (decodeCommand s.cmd s.comp s.pbuf).wellFormed = true) ∧
    Sys2Proof.Machine.step s =
      onNext
        (exec (decodeCommand s.cmd s.comp s.pbuf)
          { s with stat := b, field := .magic0, idleCnt := 0#32, pending := rest, csrAnswer := .quiet })
        fun t => .next { t with pbuf := [] }

/-- A whole packet, byte by byte, runs its command (40_framer.md R183 to R198, 41_commands.md R231): from a packet boundary of an
open session, or from IDLE (which starts a session first), the 10 + SIZE steps on the bytes of a well-formed packet end where
one execution of its command ends, in the state whose latches hold its fields. -/
def Obligations.PacketBytesRunTheirCommand : Prop :=
  ∀ (i : Instr) (cmd comp ack stat : Byte) (payload : List Byte) (rest : List Event) (s : State),
    packetOperands i = some (cmd, comp, payload) → i.wellFormed = true → s.en = true →
    s.pending = (encodeWith ack stat i).map Event.byteIn ++ rest →
    (s.session = .receiving → s.field = .magic0 →
      run (10 + payload.length) s =
        onNext (exec i (framedState cmd comp payload ack stat { s with pending := rest }))
          fun t => .next { t with pbuf := [] }) ∧
    (s.session = .idle →
      run (10 + payload.length) s =
        onNext (exec i (framedState cmd comp payload ack stat (sessionStart { s with pending := rest })))
          fun t => .next { t with pbuf := [] })

/-- A mismatch that is not fatal skips the packet (40_framer.md R196, 60_exceptions.md R402): SKIPPED counts it up to 2^32 - 1,
SKIP_ANY is set, and no command runs. -/
def Obligations.MismatchWithoutAgreementSkipsThePacket : Prop :=
  ∀ (b : Byte) (rest : List Event) (s : State),
    s.en = true → s.session = .receiving → s.field = .status → s.csumAcc ≠ s.csumRx →
    (b.toNat % 2 = 0 ∨ s.strict = false) → s.pending = .byteIn b :: rest →
    Sys2Proof.Machine.step s = .next
      { s with
        stat := b, field := .magic0, pbuf := [], skipAny := true
        skipped := BitVec.ofNat 32 (min (s.skipped.toNat + 1) 4294967295)
        idleCnt := 0#32, pending := rest, csrAnswer := .quiet }

/-- A mismatch that the peer denies, with STRICT = 1, takes the abort with kind CHECKSUM (40_framer.md R197, 60_exceptions.md
R403, R410): FAULT_INFO holds CSUM_ACC above CSUM_RX, and the command does not run. -/
def Obligations.MismatchWithAgreementAborts : Prop :=
  ∀ (b : Byte) (rest : List Event) (s : State),
    s.en = true → s.session = .receiving → s.field = .status → s.csumAcc ≠ s.csumRx →
    b.toNat % 2 = 1 → s.strict = true → s.pending = .byteIn b :: rest →
    Sys2Proof.Machine.step s = .next
      { s with
        stat := b, fatalKind := .checksum
        faultInfo := BitVec.ofNat 32 (65536 * s.csumAcc.toNat + s.csumRx.toNat)
        eventBits := s.eventBits ||| 4#3
        vram := [], parts := [], pbuf := []
        partCnt := 0#32, rowsAcc := 0#32, vramLen := 0#32, storeUsed := 0#32
        field := .magic0, session := .aborted
        idleCnt := 0#32, pending := rest, csrAnswer := .quiet }

/-- The magic check at the second byte (40_framer.md R186, 60_exceptions.md R401): 0x3388 goes on to CMD, every other value
takes the abort with kind DESYNC and FAULT_INFO the value received. -/
def Obligations.BadMagicAborts : Prop :=
  ∀ (b0 b1 : Byte) (rest : List Event) (s : State),
    s.en = true → s.session = .receiving → s.field = .magic1 → s.magic = b0.setWidth 16 → s.pending = .byteIn b1 :: rest →
    (b0 = 0x88#8 ∧ b1 = 0x33#8 →
      Sys2Proof.Machine.step s = .next
        { s with magic := 0x3388#16, field := .cmd, idleCnt := 0#32, pending := rest, csrAnswer := .quiet }) ∧
    (¬(b0 = 0x88#8 ∧ b1 = 0x33#8) →
      Sys2Proof.Machine.step s = .next
        { s with
          magic := BitVec.ofNat 16 (b0.toNat + 256 * b1.toNat)
          fatalKind := .desync, faultInfo := BitVec.ofNat 32 (b0.toNat + 256 * b1.toNat)
          eventBits := s.eventBits ||| 4#3
          vram := [], parts := [], pbuf := []
          partCnt := 0#32, rowsAcc := 0#32, vramLen := 0#32, storeUsed := 0#32
          field := .magic0, session := .aborted
          idleCnt := 0#32, pending := rest, csrAnswer := .quiet })

/-- ACK never matters, and of STATUS only bit 0 and only on a mismatch (30_encoding.md R137, R138; 40_framer.md R195): two runs
of the STATUS event that differ in those end alike but for the latches ACK and STAT themselves. -/
def Obligations.AckAndStatusBitsHaveNoEffect : Prop :=
  ∀ (a1 a2 b1 b2 : Byte) (rest : List Event) (s : State),
    s.en = true → s.session = .receiving → s.field = .status →
    (s.csumAcc = s.csumRx ∨ b1.toNat % 2 = b2.toNat % 2) →
    ∃ t : State, Sys2Proof.Machine.step { s with ack := a1, pending := .byteIn b1 :: rest } = .next { t with ack := a1, stat := b1 } ∧
      Sys2Proof.Machine.step { s with ack := a2, pending := .byteIn b2 :: rest } = .next { t with ack := a2, stat := b2 }

/-- In ABORTED every byte is accepted and discarded, any number of them: only the idle timer restarts (40_framer.md R199,
60_exceptions.md R411). -/
def Obligations.BytesAfterAnAbortAreDiscarded : Prop :=
  ∀ (b : Byte) (bs : List Byte) (rest : List Event) (s : State),
    s.en = true → s.session = .aborted → s.pending = (b :: bs).map Event.byteIn ++ rest →
    run (bs.length + 1) s = .next { s with idleCnt := 0#32, pending := rest, csrAnswer := .quiet }

/-- ByteIn is enabled exactly when CTRL.EN = 1 and SESSION is IDLE, RECEIVING or ABORTED, and in_ready says so; otherwise the
bytes that the transport holds keep their order while the next enabled event happens (40_framer.md R181, 00_scope.md R8). -/
def Obligations.BytesWaitWhileNotReady : Prop :=
  (∀ (b : Byte) (s : State),
    (enabled (.byteIn b) s = true ↔
      s.en = true ∧ (s.session = .idle ∨ s.session = .receiving ∨ s.session = .aborted)) ∧
    (s.inReady = true ↔ enabled (.byteIn b) s = true)) ∧
  (∀ (bs : List Byte) (e : Event) (rest : List Event) (s : State),
    s.inReady = false → enabled e s = true → s.pending = bs.map Event.byteIn ++ e :: rest →
    Sys2Proof.Machine.step s =
      applyEvent e { s with pending := bs.map Event.byteIn ++ rest, csrAnswer := .quiet })

/-! ### Sessions and the idle timer -/

/-- The state transitions of 45_session.md R341 at every step whose event is no clocked cycle: the session state changes only as
listed, by the event listed; a register write ends a session only as a CTRL write with END and without SRST or as a write of a
nonzero IDLE_LIMIT (R345, R346). A clocked cycle may merge several events and is exempt (log entry 10). Which event is next is
the MODEL's choice: the first enabled one pending (log entry 1), Finalize where none is (log entry 2), and with neither the step
changes nothing (log entry 3). -/
def Obligations.SessionStateChangesOnlyAsListed : Prop :=
  ∀ (s t : State), Sys2Proof.Machine.step s = .next t →
    match nextEventOf s with
    | none => t = s
    | some e => isCycle e = true ∨ transitionBy e s.session t.session = true

/-- One Tick (45_session.md R342, R345): in an open session IDLE_CNT counts up to 2^32 - 1; while the timeout is disabled or not
reached the session goes on, and the Tick that reaches a nonzero IDLE_LIMIT ends it: in RECEIVING with TRUNC set and the partial
packet discarded inside a packet (R347), in ABORTED without TRUNC (R348). In every other state nothing changes. -/
def Obligations.TickCountsOnlyInAnOpenSession : Prop :=
  ∀ (rest : List Event) (s : State), s.pending = .tick :: rest →
    (s.session = .receiving ∨ s.session = .aborted →
      s.idleLimit = 0#32 ∨ s.idleCnt.toNat + 1 < s.idleLimit.toNat →
      Sys2Proof.Machine.step s = .next
        { s with
          idleCnt := BitVec.ofNat 32 (min (s.idleCnt.toNat + 1) 4294967295)
          pending := rest, csrAnswer := .quiet }) ∧
    (s.idleLimit ≠ 0#32 → s.idleLimit.toNat ≤ s.idleCnt.toNat + 1 →
      (s.session = .receiving → s.field ≠ .magic0 →
        Sys2Proof.Machine.step s = .next
          { s with
            trunc := true, pbuf := [], field := .magic0
            session := .finalizing, idleCnt := 0#32, pending := rest, csrAnswer := .quiet }) ∧
      (s.session = .receiving ∧ s.field = .magic0 ∨ s.session = .aborted →
        Sys2Proof.Machine.step s = .next
          { s with session := .finalizing, idleCnt := 0#32, pending := rest, csrAnswer := .quiet })) ∧
    (s.session = .idle ∨ s.session = .finalizing ∨ s.session = .emitting →
      Sys2Proof.Machine.step s = .next { s with pending := rest, csrAnswer := .quiet })

/-- An open session, received or aborted, ends at the IDLE_LIMIT-th Tick after the last byte and not before (45_session.md R345,
R347, R348). -/
def Obligations.TimeoutFiresAtTheLimitTick : Prop :=
  ∀ (rest : List Event) (s : State),
    s.session = .receiving ∨ s.session = .aborted → s.idleCnt = 0#32 → s.idleLimit ≠ 0#32 →
    s.pending = List.replicate s.idleLimit.toNat Event.tick ++ rest →
    (∀ k, k < s.idleLimit.toNat →
      ∃ t, run k s = .next t ∧ t.session = s.session ∧ t.trunc = s.trunc ∧ t.idleCnt.toNat = k) ∧
    ∃ t, run s.idleLimit.toNat s = .next t ∧ t.session = .finalizing ∧ t.idleCnt = 0#32 ∧ t.pending = rest ∧
      t.trunc = (s.trunc || (s.session == .receiving && s.field != .magic0))

/-- IDLE_LIMIT = 0 disables the timeout (45_session.md R344): any number of Ticks leaves an open session open, and IDLE_CNT
counts them, saturating. -/
def Obligations.ZeroLimitNeverTimesOut : Prop :=
  ∀ (k : Nat) (rest : List Event) (s : State),
    s.session = .receiving ∨ s.session = .aborted → s.idleLimit = 0#32 →
    s.pending = List.replicate (k + 1) Event.tick ++ rest →
    run (k + 1) s = .next
      { s with
        idleCnt := BitVec.ofNat 32 (min (s.idleCnt.toNat + (k + 1)) 4294967295)
        pending := rest, csrAnswer := .quiet }

/-- The end event (45_session.md R346 to R349, 40_framer.md R200, 60_exceptions.md R404): in RECEIVING a partial packet is
discarded and TRUNC set; in ABORTED TRUNC is not set; elsewhere nothing happens. -/
def Obligations.DisconnectEndsAnOpenSession : Prop :=
  ∀ (rest : List Event) (s : State), s.pending = .disconnect :: rest →
    (s.session = .receiving → s.field = .magic0 →
      Sys2Proof.Machine.step s = .next
        { s with session := .finalizing, idleCnt := 0#32, pending := rest, csrAnswer := .quiet }) ∧
    (s.session = .receiving → s.field ≠ .magic0 →
      Sys2Proof.Machine.step s = .next
        { s with
          trunc := true, pbuf := [], field := .magic0
          session := .finalizing, idleCnt := 0#32, pending := rest, csrAnswer := .quiet }) ∧
    (s.session = .aborted →
      Sys2Proof.Machine.step s = .next
        { s with session := .finalizing, idleCnt := 0#32, pending := rest, csrAnswer := .quiet }) ∧
    (s.session = .idle ∨ s.session = .finalizing ∨ s.session = .emitting →
      Sys2Proof.Machine.step s = .next { s with pending := rest, csrAnswer := .quiet })

/-- Finalize with no image (45_session.md R350, R352, R353, R354): a fatal session ends with its kind's code, a session with no
part or no full row with EMPTY; IMG_HEIGHT and PNG_LEN are 0, VRAM and PARTS discarded, SESSION IDLE, EVENTS.DONE set. -/
def Obligations.FinalizeWithoutImage : Prop :=
  ∀ (rest : List Event) (s : State) (code : Word),
    s.session = .finalizing → s.pending = .finalize :: rest →
    (s.fatalKind = .desync ∧ code = 3#32 ∨ s.fatalKind = .checksum ∧ code = 4#32 ∨ s.fatalKind = .overflow ∧ code = 5#32 ∨
      s.fatalKind = .none ∧ (s.partCnt = 0#32 ∨ s.rowsAcc = 0#32) ∧ code = 2#32) →
    Sys2Proof.Machine.step s = .next
      { s with
        result := code + (if s.trunc then 256#32 else 0#32) + (if s.rleBad then 512#32 else 0#32)
          + (if s.skipAny then 1024#32 else 0#32)
        imgHeight := 0#32, pngLen := 0#32, vram := [], parts := []
        session := .idle, eventBits := s.eventBits ||| 1#3, pending := rest, csrAnswer := .quiet }

/-- Finalize with an image (45_session.md R350, R351, R354; 43_compositor.md R261; 44_png.md R300, R310, R320), for every
DEFLATE_IMPL: with recorded rows and a zlib stream of n <= 2^31 - 1 bytes, n being the closed form of R299 with STORED and the
stream's own length with another compressor, the raster of H = roundup8(ROWS_ACC) rows and its PNG are made, the session data
discarded and the emission begun. IMG_HEIGHT is H where H fits 32 bits; an H of 2^32 is left open (log entry 7). That this holds
for an H above 2^31 - 1 too, against R311's sentence on the image height, is the MODEL's choice (log entry 28, DESIGN CHOICE). -/
def Obligations.FinalizeWithImageBeginsEmission : Prop :=
  ∀ (rest : List Event) (s : State) (h n : Nat),
    s.session = .finalizing → s.pending = .finalize :: rest → s.fatalKind = .none → s.partCnt ≠ 0#32 → s.rowsAcc ≠ 0#32 →
    h = (s.rowsAcc.toNat + 7) / 8 * 8 →
    (s.params.deflate = .stored ∧
        n = 2 + 5 * ((161 * h + (s.params.storedBlockMax.toNat - 1)) / s.params.storedBlockMax.toNat) + 161 * h + 4 ∨
      s.params.deflate ≠ .stored ∧ n = (zlibStream s.params (scanlines (compose s.parts h))).length) →
    n ≤ 2147483647 →
    ∃ height : Word, (h < 4294967296 → height.toNat = h) ∧
      Sys2Proof.Machine.step s = .next
        { s with
          result := 1#32 + (if s.trunc then 256#32 else 0#32) + (if s.rleBad then 512#32 else 0#32)
            + (if s.skipAny then 1024#32 else 0#32)
          raster := some (compose s.parts h), imgHeight := height
          outbuf := pngBytes s.params h (compose s.parts h)
          pngLen := BitVec.ofNat 32 (pngBytes s.params h (compose s.parts h)).length, outIdx := 0#32
          vram := [], parts := [], session := .emitting, pending := rest, csrAnswer := .quiet }

/-- The image-size OVERFLOW (45_session.md R350, R353; 44_png.md R311; 60_exceptions.md R400, R406), for every DEFLATE_IMPL: a zlib
stream of n > 2^31 - 1 bytes, n as in `FinalizeWithImageBeginsEmission`, gives outcome OVERFLOW, FAULT_INFO 0 and EVENTS.FATAL,
and no image. That FATAL_KIND is set too is read from row E6 of R400's table; R350's pseudocode does not write it (log entry 9,
DEDUCED). -/
def Obligations.FinalizeOfTooLargeAnImageOverflows : Prop :=
  ∀ (rest : List Event) (s : State) (h n : Nat),
    s.session = .finalizing → s.pending = .finalize :: rest → s.fatalKind = .none → s.partCnt ≠ 0#32 → s.rowsAcc ≠ 0#32 →
    h = (s.rowsAcc.toNat + 7) / 8 * 8 →
    (s.params.deflate = .stored ∧
        n = 2 + 5 * ((161 * h + (s.params.storedBlockMax.toNat - 1)) / s.params.storedBlockMax.toNat) + 161 * h + 4 ∨
      s.params.deflate ≠ .stored ∧ n = (zlibStream s.params (scanlines (compose s.parts h))).length) →
    2147483647 < n →
    Sys2Proof.Machine.step s = .next
      { s with
        result := 5#32 + (if s.trunc then 256#32 else 0#32) + (if s.rleBad then 512#32 else 0#32)
          + (if s.skipAny then 1024#32 else 0#32)
        fatalKind := .overflow, faultInfo := 0#32, imgHeight := 0#32, pngLen := 0#32, vram := [], parts := []
        session := .idle, eventBits := s.eventBits ||| 5#3, pending := rest, csrAnswer := .quiet }

/-- The return from an abort (60_exceptions.md R413): an aborted session that ends finalizes with its kind's outcome and returns
to IDLE with DONE set, and the next byte begins a session with every piece of session state cleared (45_session.md R340). -/
def Obligations.AbortedSessionReturnsToIdleAndStartsFresh : Prop :=
  ∀ (b : Byte) (rest : List Event) (s : State),
    s.en = true → s.session = .aborted → s.fatalKind ≠ .none →
    s.pending = .disconnect :: .finalize :: .byteIn b :: rest →
    ∃ t u, run 2 s = .next t ∧ t.session = .idle ∧ t.result.toNat % 8 = s.fatalKind.outcome.code.toNat ∧
      t.eventBits = s.eventBits ||| 1#3 ∧ t.faultInfo = s.faultInfo ∧
      run 3 s = .next u ∧ u.session = .receiving ∧ u.field = .magic1 ∧ u.magic.toNat = b.toNat ∧ u.fatalKind = .none ∧
      u.vram = [] ∧ u.parts = [] ∧ u.pbuf = [] ∧ u.idleCnt = 0#32 ∧
      u.skipped = 0#32 ∧ u.partCnt = 0#32 ∧ u.rowsAcc = 0#32 ∧ u.vramLen = 0#32 ∧ u.storeUsed = 0#32 ∧
      u.trunc = false ∧ u.rleBad = false ∧ u.skipAny = false ∧
      u.result = 0#32 ∧ u.imgHeight = 0#32 ∧ u.pngLen = 0#32 ∧ u.faultInfo = 0#32 ∧
      u.eventBits = t.eventBits ∧ u.irqEn = s.irqEn ∧ u.idleLimit = s.idleLimit ∧ u.en = s.en ∧ u.strict = s.strict

/-- The output stream (20_memory.md R117; 44_png.md R321 to R323; 45_session.md R355): the host's OutPops take the bytes of
OUTBUF in order, out_last marks the last one, and with it the emission ends: SESSION IDLE, nothing held, DONE and IMAGE set. -/
def Obligations.OutputStreamDeliversThePngInOrder : Prop :=
  ∀ (rest : List Event) (s : State) (n : Nat),
    s.session = .emitting → s.pngLen.toNat = s.outbuf.length → s.outIdx.toNat + n = s.outbuf.length → 0 < n →
    s.pending = List.replicate n Event.outPop ++ rest →
    (∀ k, k < n → ∃ t, run k s = .next t ∧ t.outValid = true ∧ some t.outData = s.outbuf[s.outIdx.toNat + k]? ∧
      (t.outLast = true ↔ k + 1 = n)) ∧
    ∃ t, run n s = .next t ∧ t.session = .idle ∧ t.outValid = false ∧ t.outData = 0#8 ∧
      t.outbuf = [] ∧ t.outIdx = 0#32 ∧ t.raster = none ∧ t.eventBits = s.eventBits ||| 3#3 ∧ t.pending = rest

/-- A session's image is a function of its bytes (45_session.md R356), here with the timeout disabled and Disconnect as the end:
two IDLE instances with the same STRICT and parameters, whatever else they hold, that take the same bytes with any Ticks and
register reads between them and are then disconnected and finalized, hold the same raster and the same PNG. -/
def Obligations.SessionImageDependsOnlyOnItsBytes : Prop :=
  ∀ (es1 es2 : List Event) (s1 s2 : State),
    s1.session = .idle → s2.session = .idle → s1.en = true → s2.en = true →
    s1.strict = s2.strict → s1.params = s2.params → s1.idleLimit = 0#32 → s2.idleLimit = 0#32 →
    OutputEmpty s1 → OutputEmpty s2 →
    (∀ e ∈ es1, isQuiet e = true) → (∀ e ∈ es2, isQuiet e = true) → bytesOf es1 = bytesOf es2 →
    s1.pending = es1 ++ [.disconnect, .finalize] → s2.pending = es2 ++ [.disconnect, .finalize] →
    ∃ t1 t2, run (es1.length + 2) s1 = .next t1 ∧ run (es2.length + 2) s2 = .next t2 ∧
      t1.raster = t2.raster ∧ t1.outbuf = t2.outbuf ∧ t1.session = t2.session ∧ (bytesOf es1 ≠ [] → t1.result = t2.result)

/-- EVENTS (60_exceptions.md R415): at one event other than a clocked cycle, DONE rises only when a session returns to IDLE from
FINALIZING or EMITTING, IMAGE only when an emission ends, FATAL only at an abort or at the Finalize step; a bit falls only by a
write of 1 to it, by Reset or by soft reset. -/
def Obligations.EventBitsChangeOnlyAsListed : Prop :=
  ∀ (e : Event) (s t : State), enabled e s = true → isCycle e = false → applyEvent e s = .next t →
    (t.eventBits.getLsbD 0 = true → s.eventBits.getLsbD 0 = false →
      (s.session = .finalizing ∨ s.session = .emitting) ∧ t.session = .idle) ∧
    (t.eventBits.getLsbD 1 = true → s.eventBits.getLsbD 1 = false → s.session = .emitting ∧ t.session = .idle) ∧
    (t.eventBits.getLsbD 2 = true → s.eventBits.getLsbD 2 = false →
      (s.session = .receiving ∧ t.session = .aborted) ∨ (s.session = .finalizing ∧ t.session = .idle)) ∧
    (∀ k, s.eventBits.getLsbD k = true → t.eventBits.getLsbD k = false →
      isReset e = true ∨ ∃ v : Word, e = .csrWrite 0x0C#8 v ∧ v.getLsbD k = true)

/-! ### The register window -/

/-- The register map (10_state.md R50 to R67): what every offset of the window reads as. STATUS holds the codes of R32 in bits 2:0
and of R33 in bits 7:4, MIDPKT in bit 3 and OUT_PENDING in bit 8 (R52). -/
def Obligations.RegisterMapReadsAsListed : Prop :=
  ∀ s : State,
    (readOffset 0x00#8 s).toNat = s.en.toNat + 2 * s.strict.toNat ∧
    (readOffset 0x04#8 s).toNat =
      (match s.session with | .idle => 0 | .receiving => 1 | .aborted => 2 | .finalizing => 3 | .emitting => 4)
      + (if s.session = .receiving ∧ s.field ≠ .magic0 then 8 else 0)
      + 16 * (match s.field with
          | .magic0 => 0 | .magic1 => 1 | .cmd => 2 | .comp => 3 | .size0 => 4 | .size1 => 5 | .payload => 6 | .csum0 => 7
          | .csum1 => 8 | .ack => 9 | .status => 10)
      + (if s.session = .emitting then 256 else 0) ∧
    readOffset 0x08#8 s = s.result ∧ (readOffset 0x0C#8 s).toNat = s.eventBits.toNat ∧
    (readOffset 0x10#8 s).toNat = s.irqEn.toNat ∧ readOffset 0x14#8 s = s.idleLimit ∧ readOffset 0x18#8 s = s.skipped ∧
    readOffset 0x1C#8 s = s.partCnt ∧ readOffset 0x20#8 s = s.rowsAcc ∧ readOffset 0x24#8 s = s.imgHeight ∧
    readOffset 0x28#8 s = s.pngLen ∧ readOffset 0x2C#8 s = s.vramLen ∧ readOffset 0x30#8 s = s.storeUsed ∧
    readOffset 0x34#8 s = s.params.storeBytes ∧ readOffset 0x38#8 s = s.params.maxParts ∧ readOffset 0x3C#8 s = s.faultInfo ∧
    ∀ offset : Byte, 0x40 ≤ offset.toNat → readOffset offset s = 0#32

/-- CsrRead (20_memory.md R108, R110; 60_exceptions.md R407): an aligned offset answers csr_ack with the register's value, any
other csr_err with 0; no state changes, whatever the session state. -/
def Obligations.RegisterReadChangesNothing : Prop :=
  ∀ (offset : Byte) (rest : List Event) (s : State), s.pending = .csrRead offset :: rest →
    ∃ t, Sys2Proof.Machine.step s = .next t ∧ t = { s with pending := rest, csrAnswer := t.csrAnswer } ∧
      (offset.toNat % 4 = 0 → t.csrAck = true ∧ t.csrErr = false ∧ t.csrRdata = some (readOffset offset s)) ∧
      (offset.toNat % 4 ≠ 0 → t.csrAck = false ∧ t.csrErr = true ∧ t.csrRdata = some 0#32)

/-- Writes without an effect (10_state.md R50, R67; 20_memory.md R108, R110; 60_exceptions.md R407): to a read-only register or a
reserved offset (acknowledged), and to a misaligned offset (an error). -/
def Obligations.WritesToReadOnlyOrMisalignedOffsetsAreIgnored : Prop :=
  ∀ (offset : Byte) (v : Word) (rest : List Event) (s : State), s.pending = .csrWrite offset v :: rest →
    offset ∉ [0x00#8, 0x0C#8, 0x10#8, 0x14#8] →
    Sys2Proof.Machine.step s = .next
      { s with pending := rest, csrAnswer := if offset.toNat % 4 = 0 then .written else .writeError }

/-- A CTRL write without SRST (10_state.md R51, 45_session.md R346): EN and STRICT take bits 0 and 1, and with END an open session
ends at that write. -/
def Obligations.ControlWriteSetsEnableAndStrict : Prop :=
  ∀ (v : Word) (rest : List Event) (s : State), s.pending = .csrWrite 0x00#8 v :: rest → v.getLsbD 3 = false →
    (v.getLsbD 2 = false →
      Sys2Proof.Machine.step s = .next
        { s with en := v.getLsbD 0, strict := v.getLsbD 1, pending := rest, csrAnswer := .written }) ∧
    (v.getLsbD 2 = true → s.session = .receiving ∨ s.session = .aborted →
      ∃ t, Sys2Proof.Machine.step s = .next t ∧ t.session = .finalizing ∧ t.en = v.getLsbD 0 ∧ t.strict = v.getLsbD 1 ∧
        t.trunc = (s.trunc || (s.session == .receiving && s.field != .magic0)) ∧ t.field = (if s.session = .receiving then .magic0 else s.field)
          ∧ t.idleCnt = 0#32 ∧ t.vram = s.vram ∧ t.parts = s.parts) ∧
    (v.getLsbD 2 = true → s.session = .idle ∨ s.session = .finalizing ∨ s.session = .emitting →
      Sys2Proof.Machine.step s = .next
        { s with en := v.getLsbD 0, strict := v.getLsbD 1, pending := rest, csrAnswer := .written })

/-- Soft reset (70_reset_and_hazards.md R452, 10_state.md R51): every component takes its reset value but EN and STRICT, which
take the written bits, and IDLE_LIMIT and IRQ_EN, which are kept; END is ignored. The configuration, the pending events and the
disconnect level are the model's own and stay. -/
def Obligations.SoftResetKeepsTheConfiguration : Prop :=
  ∀ (v : Word) (rest : List Event) (s : State), s.pending = .csrWrite 0x00#8 v :: rest → v.getLsbD 3 = true →
    Sys2Proof.Machine.step s = .next
      { State.reset with
        en := v.getLsbD 0, strict := v.getLsbD 1, idleLimit := s.idleLimit, irqEn := s.irqEn
        params := s.params, pending := rest, csrAnswer := .written, disconnectLevel := s.disconnectLevel }

/-- Writes to EVENTS, IRQ_EN and IDLE_LIMIT (10_state.md R54, R55, R56; 70_reset_and_hazards.md R465, R466): a 1 clears its EVENTS
bit and nothing else changes; IRQ_EN takes bits 2:0; IDLE_LIMIT takes the value, and the session ends at the write exactly when
the new limit is not 0 and already reached. -/
def Obligations.WritableRegistersTakeTheirValues : Prop :=
  ∀ (v : Word) (rest : List Event) (s : State),
    (s.pending = .csrWrite 0x0C#8 v :: rest →
      ∃ bits : BitVec 3, (∀ k, k < 3 → bits.getLsbD k = (s.eventBits.getLsbD k && !v.getLsbD k)) ∧
        Sys2Proof.Machine.step s = .next { s with eventBits := bits, pending := rest, csrAnswer := .written }) ∧
    (s.pending = .csrWrite 0x10#8 v :: rest →
      ∃ bits : BitVec 3, bits.toNat = v.toNat % 8 ∧
        Sys2Proof.Machine.step s = .next { s with irqEn := bits, pending := rest, csrAnswer := .written }) ∧
    (s.pending = .csrWrite 0x14#8 v :: rest →
      (v = 0#32 ∨ s.idleCnt.toNat < v.toNat ∨ (s.session ≠ .receiving ∧ s.session ≠ .aborted) →
        Sys2Proof.Machine.step s = .next { s with idleLimit := v, pending := rest, csrAnswer := .written }) ∧
      (v ≠ 0#32 → v.toNat ≤ s.idleCnt.toNat → s.session = .receiving ∨ s.session = .aborted →
        ∃ t, Sys2Proof.Machine.step s = .next t ∧ t.session = .finalizing ∧ t.idleLimit = v ∧ t.idleCnt = 0#32))

/-- irq is a level (60_exceptions.md R417): 1 exactly when an EVENTS bit and its enable are both 1. -/
def Obligations.InterruptIsTheEnabledEvents : Prop :=
  ∀ s : State, s.irq = true ↔ ∃ k, k < 3 ∧ s.eventBits.getLsbD k = true ∧ s.irqEn.getLsbD k = true

/-! ### The compositor and the PNG -/

/-- The raw index and the palette lookup as numbers (30_encoding.md R143, R144; 43_compositor.md R266, R267). -/
def Obligations.PixelDecodeAndPaletteAsNumbers : Prop :=
  (∀ (lo hi : Byte) (p : Nat), p < 8 →
    (rawIndex lo hi p).toNat = lo.toNat / 2 ^ (7 - p) % 2 + 2 * (hi.toNat / 2 ^ (7 - p) % 2)) ∧
  (∀ (pal : Byte) (r : Stored), (paletteLookup pal r).toNat = 3 - pal.toNat / 4 ^ r.toNat % 4)

/-- The compositor's walk and its cell form agree (43_compositor.md R270): every cell of the raster has the value that the part
and strip it falls in give it. -/
def Obligations.RasterCellsHaveTheCellFormsValues : Prop :=
  ∀ (parts : List ImagePart) (h x y : Nat) (row : List Stored), x < 160 → (compose parts h)[y]? = some row →
    y < h ∧ row[x]?.map BitVec.toNat = cellValue parts (y / 8) x (y % 8)

/-- Coverage (43_compositor.md R269): with ROWS_ACC the sum over the parts, the raster has exactly H rows of 160 cells. -/
def Obligations.RasterIsCoveredExactly : Prop :=
  ∀ (parts : List ImagePart) (rowsAcc : Word), rowsAcc.toNat = totalRows parts →
    (compose parts (imageHeight rowsAcc)).length = imageHeight rowsAcc ∧
    ∀ row ∈ compose parts (imageHeight rowsAcc), row.length = 160

/-- Lengths with STORED (44_png.md R299, R310): len(Z) = 2 + 5 nb + N + 4 with N = 161 H, and the PNG is 81 bytes longer. -/
def Obligations.PngLengthIsTheClosedForm : Prop :=
  ∀ (p : Config.Params) (h : Nat) (rows : List (List Stored)),
    p.deflate = .stored → p.storedBlockMax ≠ 0#16 → rows.length = h → (∀ row ∈ rows, row.length = 160) →
    (zlibStream p (scanlines rows)).length =
      2 + 5 * ((161 * h + (p.storedBlockMax.toNat - 1)) / p.storedBlockMax.toNat) + 161 * h + 4 ∧
    (pngBytes p h rows).length = 81 + (zlibStream p (scanlines rows)).length

/-- Decodability (44_png.md R312), for every DEFLATE_IMPL: a decoder that checks the signature, every CRC-32, the zlib header and
the Adler-32, and decompresses the IDAT data, reads from the PNG of a raster its width 160, its height, the four greys 85k, and
every cell's stored value. What a zlib stream decompresses to goes beyond R150 and R151 by RFC 1950 and 1951 (log entry 27,
PRESUMED); that another compressor meets R300's contract is how the model takes it (log entry 5). A height above 2^31 - 1, which
R311 calls non-conforming, is read back as well: the decoder here has no such limit, and the model emits such a PNG by its own
choice (log entry 28, DESIGN CHOICE). -/
def Obligations.PngReadsBackAsTheRaster : Prop :=
  ∀ (p : Config.Params) (h : Nat) (rows : List (List Stored)),
    (p.deflate = .stored → p.storedBlockMax ≠ 0#16) → rows.length = h → 0 < h → h < 4294967296 →
    (∀ row ∈ rows, row.length = 160) → (zlibStream p (scanlines rows)).length ≤ 2147483647 →
    readPng (pngBytes p h rows) = some
      { width := 160, height := h
        palette := [0#8, 0#8, 0#8, 85#8, 85#8, 85#8, 170#8, 170#8, 170#8, 255#8, 255#8, 255#8]
        rows := rows.map fun row => row.map fun v => BitVec.ofNat 8 v.toNat }

/-- Another compressor (44_png.md R300, R310) is a function f of the scanline bytes alone, and f(R) is one complete zlib stream
that decompresses to exactly R; where what `Config.deflateOther` proposes is such a stream, f(R) is the proposal (log entry 5).
With it only the IDAT chunk's length, data and CRC differ from STORED's, and PNG_LEN is 81 + len(f(R)). What a stream
decompresses to goes beyond R150 and R151 by RFC 1950 and 1951 (log entry 27, PRESUMED). -/
def Obligations.OtherCompressorChangesOnlyTheIdatChunk : Prop :=
  ∀ which : Nat, ∃ f : List Byte → List Byte,
    (∀ r, zlibDecompress (f r) = some r) ∧
    (∀ r, zlibDecompress (Config.deflateOther which r) = some r → f r = Config.deflateOther which r) ∧
    ∀ (p : Config.Params) (h : Nat) (rows : List (List Stored)), p.deflate = .other which →
      (pngBytes p h rows).length = 81 + (f (scanlines rows)).length ∧
      ∃ front : List Byte,
        pngBytes p h rows = front ++ chunk typeIdat (f (scanlines rows))
          ++ [0#8, 0#8, 0#8, 0#8, 0x49#8, 0x45#8, 0x4E#8, 0x44#8, 0xAE#8, 0x42#8, 0x60#8, 0x82#8] ∧
        pngBytes { p with deflate := .stored } h rows = front ++ chunk typeIdat (zlibStored p.storedBlockMax.toNat (scanlines rows))
          ++ [0#8, 0#8, 0#8, 0#8, 0x49#8, 0x45#8, 0x4E#8, 0x44#8, 0xAE#8, 0x42#8, 0x60#8, 0x82#8]

/-- The check values of CRC-32 and Adler-32 (44_png.md R294, R301), and the CRC register fed chunk type first (R302). -/
def Obligations.ChecksumsMeetTheirCheckValues : Prop :=
  crc32 [0x31#8, 0x32#8, 0x33#8, 0x34#8, 0x35#8, 0x36#8, 0x37#8, 0x38#8, 0x39#8] = 0xCBF43926#32 ∧
  crc32 [0x49#8, 0x45#8, 0x4E#8, 0x44#8] = 0xAE426082#32 ∧
  adler32 [] = 1#32 ∧
  adler32 [0x57#8, 0x69#8, 0x6B#8, 0x69#8, 0x70#8, 0x65#8, 0x64#8, 0x69#8, 0x61#8] = 0x11E60398#32 ∧
  ∀ type data : List Byte, crc32 (type ++ data) = crcFeed (crcFeed 0xFFFFFFFF#32 type) data ^^^ 0xFFFFFFFF#32

/-! ### The whole machine -/

/-- Nothing stops the machine (60_exceptions.md R412): in every state, reached or not, the step answers a next state; and the
configuration (00_scope.md R10; in State by the model's choice, log entry 4) is fixed: no step changes it. -/
def Obligations.EveryStepAnswersANextStateWithTheSameParameters : Prop :=
  ∀ s : State, ∃ t, Sys2Proof.Machine.step s = .next t ∧ t.params = s.params

/-- Reset (70_reset_and_hazards.md R450, R451; 10_state.md R68): from every state the block's components take their reset values,
IDLE_LIMIT the one that is a parameter (00_scope.md R10, recommended 500), every register reads as listed, and every output is 0.
The parameters of the model stay (log entry 4), and so do the pending events and the disconnect level (log entries 1, 11). -/
def Obligations.ResetLeavesTheListedValues : Prop :=
  ∀ (rest : List Event) (s : State), s.pending = .reset :: rest →
    ∃ t, Sys2Proof.Machine.step s = .next t ∧
      t = { State.reset with
            idleLimit := s.params.idleLimitReset, params := s.params, pending := rest, disconnectLevel := s.disconnectLevel } ∧
      readOffset 0x00#8 t = 2#32 ∧ readOffset 0x14#8 t = s.params.idleLimitReset ∧
      (s.params = Config.Params.recommended → readOffset 0x14#8 t = 500#32) ∧
      readOffset 0x34#8 t = s.params.storeBytes ∧ readOffset 0x38#8 t = s.params.maxParts ∧
      (∀ offset : Byte, offset ∉ [0x00#8, 0x14#8, 0x34#8, 0x38#8] → readOffset offset t = 0#32) ∧
      t.inReady = false ∧ t.outValid = false ∧ t.outLast = false ∧ t.outData = 0#8 ∧ t.csrAck = false ∧ t.csrErr = false ∧
      t.csrRdata = some 0#32 ∧ t.irq = false

/-- INVARIANT. The framer's invariant, CSUM_ACC being the sum of what arrived among it (40_framer.md R201, 10_state.md R37, R38),
is kept by every step. -/
def Obligations.StepKeepsTheFramerInvariant : Prop :=
  ∀ s t : State, FramerInv s → Sys2Proof.Machine.step s = .next t → FramerInv t

/-- INVARIANT. In an open session IDLE_CNT stays below a nonzero IDLE_LIMIT, and with no open session it is 0: every step keeps
this (45_session.md R342 to R345). -/
def Obligations.StepKeepsTheTimerInvariant : Prop :=
  ∀ s t : State, TimerInv s → Sys2Proof.Machine.step s = .next t → TimerInv t

/-- INVARIANT. The session memories agree with their counters and stay within the capacities: every step keeps this
(10_state.md R40, R41, R46; 41_commands.md R226, R228; 60_exceptions.md R410). -/
def Obligations.StepKeepsTheMemoryInvariant : Prop :=
  ∀ s t : State, MemoryInv s → Sys2Proof.Machine.step s = .next t → MemoryInv t

/-- INVARIANT. With parameters in their ranges and the session memories in agreement, every step keeps the output's invariant:
something is held exactly while EMITTING, and then it is the PNG of a raster of IMG_HEIGHT rows of 160 cells, of PNG_LEN bytes,
with a byte still to take (10_state.md R42, R43; 44_png.md R309, R310). -/
def Obligations.StepKeepsTheOutputInvariant : Prop :=
  ∀ s t : State, s.params.inRange = true → MemoryInv s → OutputInv s → Sys2Proof.Machine.step s = .next t → OutputInv t

/-- The invariants hold right after reset (70_reset_and_hazards.md R451). -/
def Obligations.ResetStateMeetsTheInvariants : Prop := Inv State.reset

/-! ### One clocked cycle -/

/-- A cycle with a single event is that event (00_scope.md R6), here an accepted byte, a Tick, or a rising edge of the disconnect
input (10_state.md R68, 45_session.md R346); an input that stays at 1 is no event. A Tick in the cycle of an accepted byte is not
counted (45_session.md R343, 60_exceptions.md R421). That a whole cycle is one event, and that the input's last level is held in
`disconnectLevel`, is the MODEL's choice (log entries 10, 11). -/
def Obligations.CycleOfOneEventIsThatEventAndAByteDisplacesATick : Prop :=
  ∀ (b : Byte) (s : State),
    (s.inReady = true →
      cycleEvent { rst := false, inData := some b, disconnect := false, tick := false, outReady := false, csr := none,
                   finalizeNow := false } s =
        onNext (byteInEvent b s) fun t => .next { t with disconnectLevel := false }) ∧
    cycleEvent { rst := false, inData := none, disconnect := false, tick := true, outReady := false, csr := none,
                 finalizeNow := false } s =
      .next { tickEvent s with disconnectLevel := false } ∧
    cycleEvent { rst := false, inData := none, disconnect := true, tick := false, outReady := false, csr := none,
                 finalizeNow := false } s =
      .next (if s.disconnectLevel then s else { disconnectEvent s with disconnectLevel := true }) ∧
    cycleEvent { rst := false, inData := none, disconnect := false, tick := false, outReady := false, csr := none,
                 finalizeNow := false } s =
      .next { s with disconnectLevel := false } ∧
    (∀ c : CycleIn, c.rst = false → c.csr = none → c.inData = some b → s.inReady = true →
      cycleEvent { c with tick := true } s = cycleEvent { c with tick := false } s)

/-- One case of set wins over clear in one cycle (60_exceptions.md R416): a byte that raises DESYNC, and so EVENTS.FATAL, in the
cycle in which the host writes all ones to EVENTS leaves exactly FATAL set. R421 gives the order inside the cycle; that the cycle
is one event of the model, each inner event acting on the state that the earlier ones left (log entry 10), and that the bits
raised before the write are set again after it (log entry 16), is the MODEL's form (DEDUCED). -/
def Obligations.EventSetWinsOverItsClear : Prop :=
  ∀ (b : Byte) (s : State), s.en = true → s.session = .receiving → s.field = .magic1 →
    s.magic ||| (b.setWidth 16 <<< 8) ≠ 0x3388#16 →
    ∃ t, cycleEvent { rst := false, inData := some b, disconnect := false, tick := false, outReady := false,
                      csr := some (.write 0x0C#8 0xFFFFFFFF#32), finalizeNow := false } s = .next t ∧
      t.eventBits = 4#3 ∧ t.session = .aborted ∧ t.csrAnswer = .written
end

