-- ==== Sys2Proof/Laws/State.lean ====
section
/-! SUPPORT. One lemma per field per named update of the state, each true by rfl, so that no proof unfolds a record update. -/

namespace Sys2Proof.Machine

/-! ### `raiseFatal` -/

@[simp] theorem raiseFatal_session (kind : FatalKind) (info : Word) (s : State) : (raiseFatal kind info s).session = .aborted := rfl
@[simp] theorem raiseFatal_field (kind : FatalKind) (info : Word) (s : State) : (raiseFatal kind info s).field = .magic0 := rfl
@[simp] theorem raiseFatal_pidx (kind : FatalKind) (info : Word) (s : State) : (raiseFatal kind info s).pidx = s.pidx := rfl
@[simp] theorem raiseFatal_magic (kind : FatalKind) (info : Word) (s : State) : (raiseFatal kind info s).magic = s.magic := rfl
@[simp] theorem raiseFatal_cmd (kind : FatalKind) (info : Word) (s : State) : (raiseFatal kind info s).cmd = s.cmd := rfl
@[simp] theorem raiseFatal_comp (kind : FatalKind) (info : Word) (s : State) : (raiseFatal kind info s).comp = s.comp := rfl
@[simp] theorem raiseFatal_size (kind : FatalKind) (info : Word) (s : State) : (raiseFatal kind info s).size = s.size := rfl
@[simp] theorem raiseFatal_csumRx (kind : FatalKind) (info : Word) (s : State) : (raiseFatal kind info s).csumRx = s.csumRx := rfl
@[simp] theorem raiseFatal_ack (kind : FatalKind) (info : Word) (s : State) : (raiseFatal kind info s).ack = s.ack := rfl
@[simp] theorem raiseFatal_stat (kind : FatalKind) (info : Word) (s : State) : (raiseFatal kind info s).stat = s.stat := rfl
@[simp] theorem raiseFatal_csumAcc (kind : FatalKind) (info : Word) (s : State) : (raiseFatal kind info s).csumAcc = s.csumAcc := rfl
@[simp] theorem raiseFatal_palLatch (kind : FatalKind) (info : Word) (s : State) : (raiseFatal kind info s).palLatch = s.palLatch := rfl
@[simp] theorem raiseFatal_pbuf (kind : FatalKind) (info : Word) (s : State) : (raiseFatal kind info s).pbuf = [] := rfl
@[simp] theorem raiseFatal_vram (kind : FatalKind) (info : Word) (s : State) : (raiseFatal kind info s).vram = [] := rfl
@[simp] theorem raiseFatal_parts (kind : FatalKind) (info : Word) (s : State) : (raiseFatal kind info s).parts = [] := rfl
@[simp] theorem raiseFatal_raster (kind : FatalKind) (info : Word) (s : State) : (raiseFatal kind info s).raster = s.raster := rfl
@[simp] theorem raiseFatal_outbuf (kind : FatalKind) (info : Word) (s : State) : (raiseFatal kind info s).outbuf = s.outbuf := rfl
@[simp] theorem raiseFatal_outIdx (kind : FatalKind) (info : Word) (s : State) : (raiseFatal kind info s).outIdx = s.outIdx := rfl
@[simp] theorem raiseFatal_idleCnt (kind : FatalKind) (info : Word) (s : State) : (raiseFatal kind info s).idleCnt = s.idleCnt := rfl
@[simp] theorem raiseFatal_trunc (kind : FatalKind) (info : Word) (s : State) : (raiseFatal kind info s).trunc = s.trunc := rfl
@[simp] theorem raiseFatal_rleBad (kind : FatalKind) (info : Word) (s : State) : (raiseFatal kind info s).rleBad = s.rleBad := rfl
@[simp] theorem raiseFatal_skipAny (kind : FatalKind) (info : Word) (s : State) : (raiseFatal kind info s).skipAny = s.skipAny := rfl
@[simp] theorem raiseFatal_fatalKind (kind : FatalKind) (info : Word) (s : State) : (raiseFatal kind info s).fatalKind = kind := rfl
@[simp] theorem raiseFatal_skipped (kind : FatalKind) (info : Word) (s : State) : (raiseFatal kind info s).skipped = s.skipped := rfl
@[simp] theorem raiseFatal_partCnt (kind : FatalKind) (info : Word) (s : State) : (raiseFatal kind info s).partCnt = 0#32 := rfl
@[simp] theorem raiseFatal_rowsAcc (kind : FatalKind) (info : Word) (s : State) : (raiseFatal kind info s).rowsAcc = 0#32 := rfl
@[simp] theorem raiseFatal_vramLen (kind : FatalKind) (info : Word) (s : State) : (raiseFatal kind info s).vramLen = 0#32 := rfl
@[simp] theorem raiseFatal_storeUsed (kind : FatalKind) (info : Word) (s : State) : (raiseFatal kind info s).storeUsed = 0#32 := rfl
@[simp] theorem raiseFatal_imgHeight (kind : FatalKind) (info : Word) (s : State) : (raiseFatal kind info s).imgHeight = s.imgHeight := rfl
@[simp] theorem raiseFatal_pngLen (kind : FatalKind) (info : Word) (s : State) : (raiseFatal kind info s).pngLen = s.pngLen := rfl
@[simp] theorem raiseFatal_faultInfo (kind : FatalKind) (info : Word) (s : State) : (raiseFatal kind info s).faultInfo = info := rfl
@[simp] theorem raiseFatal_en (kind : FatalKind) (info : Word) (s : State) : (raiseFatal kind info s).en = s.en := rfl
@[simp] theorem raiseFatal_strict (kind : FatalKind) (info : Word) (s : State) : (raiseFatal kind info s).strict = s.strict := rfl
@[simp] theorem raiseFatal_result (kind : FatalKind) (info : Word) (s : State) : (raiseFatal kind info s).result = s.result := rfl
@[simp] theorem raiseFatal_eventBits (kind : FatalKind) (info : Word) (s : State) : (raiseFatal kind info s).eventBits = s.eventBits ||| evFatal := rfl
@[simp] theorem raiseFatal_irqEn (kind : FatalKind) (info : Word) (s : State) : (raiseFatal kind info s).irqEn = s.irqEn := rfl
@[simp] theorem raiseFatal_idleLimit (kind : FatalKind) (info : Word) (s : State) : (raiseFatal kind info s).idleLimit = s.idleLimit := rfl
@[simp] theorem raiseFatal_params (kind : FatalKind) (info : Word) (s : State) : (raiseFatal kind info s).params = s.params := rfl
@[simp] theorem raiseFatal_pending (kind : FatalKind) (info : Word) (s : State) : (raiseFatal kind info s).pending = s.pending := rfl
@[simp] theorem raiseFatal_csrAnswer (kind : FatalKind) (info : Word) (s : State) : (raiseFatal kind info s).csrAnswer = s.csrAnswer := rfl
@[simp] theorem raiseFatal_disconnectLevel (kind : FatalKind) (info : Word) (s : State) : (raiseFatal kind info s).disconnectLevel = s.disconnectLevel := rfl
@[simp] theorem raiseFatal_rle (kind : FatalKind) (info : Word) (s : State) : (raiseFatal kind info s).rle = s.rle := rfl

/-! ### `raiseSkip` -/

@[simp] theorem raiseSkip_session (s : State) : (raiseSkip s).session = s.session := rfl
@[simp] theorem raiseSkip_field (s : State) : (raiseSkip s).field = s.field := rfl
@[simp] theorem raiseSkip_pidx (s : State) : (raiseSkip s).pidx = s.pidx := rfl
@[simp] theorem raiseSkip_magic (s : State) : (raiseSkip s).magic = s.magic := rfl
@[simp] theorem raiseSkip_cmd (s : State) : (raiseSkip s).cmd = s.cmd := rfl
@[simp] theorem raiseSkip_comp (s : State) : (raiseSkip s).comp = s.comp := rfl
@[simp] theorem raiseSkip_size (s : State) : (raiseSkip s).size = s.size := rfl
@[simp] theorem raiseSkip_csumRx (s : State) : (raiseSkip s).csumRx = s.csumRx := rfl
@[simp] theorem raiseSkip_ack (s : State) : (raiseSkip s).ack = s.ack := rfl
@[simp] theorem raiseSkip_stat (s : State) : (raiseSkip s).stat = s.stat := rfl
@[simp] theorem raiseSkip_csumAcc (s : State) : (raiseSkip s).csumAcc = s.csumAcc := rfl
@[simp] theorem raiseSkip_palLatch (s : State) : (raiseSkip s).palLatch = s.palLatch := rfl
@[simp] theorem raiseSkip_pbuf (s : State) : (raiseSkip s).pbuf = [] := rfl
@[simp] theorem raiseSkip_vram (s : State) : (raiseSkip s).vram = s.vram := rfl
@[simp] theorem raiseSkip_parts (s : State) : (raiseSkip s).parts = s.parts := rfl
@[simp] theorem raiseSkip_raster (s : State) : (raiseSkip s).raster = s.raster := rfl
@[simp] theorem raiseSkip_outbuf (s : State) : (raiseSkip s).outbuf = s.outbuf := rfl
@[simp] theorem raiseSkip_outIdx (s : State) : (raiseSkip s).outIdx = s.outIdx := rfl
@[simp] theorem raiseSkip_idleCnt (s : State) : (raiseSkip s).idleCnt = s.idleCnt := rfl
@[simp] theorem raiseSkip_trunc (s : State) : (raiseSkip s).trunc = s.trunc := rfl
@[simp] theorem raiseSkip_rleBad (s : State) : (raiseSkip s).rleBad = s.rleBad := rfl
@[simp] theorem raiseSkip_skipAny (s : State) : (raiseSkip s).skipAny = true := rfl
@[simp] theorem raiseSkip_fatalKind (s : State) : (raiseSkip s).fatalKind = s.fatalKind := rfl
@[simp] theorem raiseSkip_skipped (s : State) : (raiseSkip s).skipped = satInc s.skipped := rfl
@[simp] theorem raiseSkip_partCnt (s : State) : (raiseSkip s).partCnt = s.partCnt := rfl
@[simp] theorem raiseSkip_rowsAcc (s : State) : (raiseSkip s).rowsAcc = s.rowsAcc := rfl
@[simp] theorem raiseSkip_vramLen (s : State) : (raiseSkip s).vramLen = s.vramLen := rfl
@[simp] theorem raiseSkip_storeUsed (s : State) : (raiseSkip s).storeUsed = s.storeUsed := rfl
@[simp] theorem raiseSkip_imgHeight (s : State) : (raiseSkip s).imgHeight = s.imgHeight := rfl
@[simp] theorem raiseSkip_pngLen (s : State) : (raiseSkip s).pngLen = s.pngLen := rfl
@[simp] theorem raiseSkip_faultInfo (s : State) : (raiseSkip s).faultInfo = s.faultInfo := rfl
@[simp] theorem raiseSkip_en (s : State) : (raiseSkip s).en = s.en := rfl
@[simp] theorem raiseSkip_strict (s : State) : (raiseSkip s).strict = s.strict := rfl
@[simp] theorem raiseSkip_result (s : State) : (raiseSkip s).result = s.result := rfl
@[simp] theorem raiseSkip_eventBits (s : State) : (raiseSkip s).eventBits = s.eventBits := rfl
@[simp] theorem raiseSkip_irqEn (s : State) : (raiseSkip s).irqEn = s.irqEn := rfl
@[simp] theorem raiseSkip_idleLimit (s : State) : (raiseSkip s).idleLimit = s.idleLimit := rfl
@[simp] theorem raiseSkip_params (s : State) : (raiseSkip s).params = s.params := rfl
@[simp] theorem raiseSkip_pending (s : State) : (raiseSkip s).pending = s.pending := rfl
@[simp] theorem raiseSkip_csrAnswer (s : State) : (raiseSkip s).csrAnswer = s.csrAnswer := rfl
@[simp] theorem raiseSkip_disconnectLevel (s : State) : (raiseSkip s).disconnectLevel = s.disconnectLevel := rfl
@[simp] theorem raiseSkip_rle (s : State) : (raiseSkip s).rle = s.rle := rfl

/-! ### `appendVram` -/

@[simp] theorem appendVram_session (d : List Byte) (s : State) : (appendVram d s).session = s.session := rfl
@[simp] theorem appendVram_field (d : List Byte) (s : State) : (appendVram d s).field = s.field := rfl
@[simp] theorem appendVram_pidx (d : List Byte) (s : State) : (appendVram d s).pidx = s.pidx := rfl
@[simp] theorem appendVram_magic (d : List Byte) (s : State) : (appendVram d s).magic = s.magic := rfl
@[simp] theorem appendVram_cmd (d : List Byte) (s : State) : (appendVram d s).cmd = s.cmd := rfl
@[simp] theorem appendVram_comp (d : List Byte) (s : State) : (appendVram d s).comp = s.comp := rfl
@[simp] theorem appendVram_size (d : List Byte) (s : State) : (appendVram d s).size = s.size := rfl
@[simp] theorem appendVram_csumRx (d : List Byte) (s : State) : (appendVram d s).csumRx = s.csumRx := rfl
@[simp] theorem appendVram_ack (d : List Byte) (s : State) : (appendVram d s).ack = s.ack := rfl
@[simp] theorem appendVram_stat (d : List Byte) (s : State) : (appendVram d s).stat = s.stat := rfl
@[simp] theorem appendVram_csumAcc (d : List Byte) (s : State) : (appendVram d s).csumAcc = s.csumAcc := rfl
@[simp] theorem appendVram_palLatch (d : List Byte) (s : State) : (appendVram d s).palLatch = s.palLatch := rfl
@[simp] theorem appendVram_pbuf (d : List Byte) (s : State) : (appendVram d s).pbuf = s.pbuf := rfl
@[simp] theorem appendVram_vram (d : List Byte) (s : State) : (appendVram d s).vram = s.vram ++ d := rfl
@[simp] theorem appendVram_parts (d : List Byte) (s : State) : (appendVram d s).parts = s.parts := rfl
@[simp] theorem appendVram_raster (d : List Byte) (s : State) : (appendVram d s).raster = s.raster := rfl
@[simp] theorem appendVram_outbuf (d : List Byte) (s : State) : (appendVram d s).outbuf = s.outbuf := rfl
@[simp] theorem appendVram_outIdx (d : List Byte) (s : State) : (appendVram d s).outIdx = s.outIdx := rfl
@[simp] theorem appendVram_idleCnt (d : List Byte) (s : State) : (appendVram d s).idleCnt = s.idleCnt := rfl
@[simp] theorem appendVram_trunc (d : List Byte) (s : State) : (appendVram d s).trunc = s.trunc := rfl
@[simp] theorem appendVram_rleBad (d : List Byte) (s : State) : (appendVram d s).rleBad = s.rleBad := rfl
@[simp] theorem appendVram_skipAny (d : List Byte) (s : State) : (appendVram d s).skipAny = s.skipAny := rfl
@[simp] theorem appendVram_fatalKind (d : List Byte) (s : State) : (appendVram d s).fatalKind = s.fatalKind := rfl
@[simp] theorem appendVram_skipped (d : List Byte) (s : State) : (appendVram d s).skipped = s.skipped := rfl
@[simp] theorem appendVram_partCnt (d : List Byte) (s : State) : (appendVram d s).partCnt = s.partCnt := rfl
@[simp] theorem appendVram_rowsAcc (d : List Byte) (s : State) : (appendVram d s).rowsAcc = s.rowsAcc := rfl
@[simp] theorem appendVram_vramLen (d : List Byte) (s : State) : (appendVram d s).vramLen = BitVec.ofNat 32 (s.vram.length + d.length) := rfl
@[simp] theorem appendVram_storeUsed (d : List Byte) (s : State) : (appendVram d s).storeUsed = s.storeUsed + BitVec.ofNat 32 d.length := rfl
@[simp] theorem appendVram_imgHeight (d : List Byte) (s : State) : (appendVram d s).imgHeight = s.imgHeight := rfl
@[simp] theorem appendVram_pngLen (d : List Byte) (s : State) : (appendVram d s).pngLen = s.pngLen := rfl
@[simp] theorem appendVram_faultInfo (d : List Byte) (s : State) : (appendVram d s).faultInfo = s.faultInfo := rfl
@[simp] theorem appendVram_en (d : List Byte) (s : State) : (appendVram d s).en = s.en := rfl
@[simp] theorem appendVram_strict (d : List Byte) (s : State) : (appendVram d s).strict = s.strict := rfl
@[simp] theorem appendVram_result (d : List Byte) (s : State) : (appendVram d s).result = s.result := rfl
@[simp] theorem appendVram_eventBits (d : List Byte) (s : State) : (appendVram d s).eventBits = s.eventBits := rfl
@[simp] theorem appendVram_irqEn (d : List Byte) (s : State) : (appendVram d s).irqEn = s.irqEn := rfl
@[simp] theorem appendVram_idleLimit (d : List Byte) (s : State) : (appendVram d s).idleLimit = s.idleLimit := rfl
@[simp] theorem appendVram_params (d : List Byte) (s : State) : (appendVram d s).params = s.params := rfl
@[simp] theorem appendVram_pending (d : List Byte) (s : State) : (appendVram d s).pending = s.pending := rfl
@[simp] theorem appendVram_csrAnswer (d : List Byte) (s : State) : (appendVram d s).csrAnswer = s.csrAnswer := rfl
@[simp] theorem appendVram_disconnectLevel (d : List Byte) (s : State) : (appendVram d s).disconnectLevel = s.disconnectLevel := rfl
@[simp] theorem appendVram_rle (d : List Byte) (s : State) : (appendVram d s).rle = s.rle := rfl

/-! ### `finishWithoutImage` -/

@[simp] theorem finishWithoutImage_session (o : SessionOutcome) (s : State) : (finishWithoutImage o s).session = .idle := rfl
@[simp] theorem finishWithoutImage_field (o : SessionOutcome) (s : State) : (finishWithoutImage o s).field = s.field := rfl
@[simp] theorem finishWithoutImage_pidx (o : SessionOutcome) (s : State) : (finishWithoutImage o s).pidx = s.pidx := rfl
@[simp] theorem finishWithoutImage_magic (o : SessionOutcome) (s : State) : (finishWithoutImage o s).magic = s.magic := rfl
@[simp] theorem finishWithoutImage_cmd (o : SessionOutcome) (s : State) : (finishWithoutImage o s).cmd = s.cmd := rfl
@[simp] theorem finishWithoutImage_comp (o : SessionOutcome) (s : State) : (finishWithoutImage o s).comp = s.comp := rfl
@[simp] theorem finishWithoutImage_size (o : SessionOutcome) (s : State) : (finishWithoutImage o s).size = s.size := rfl
@[simp] theorem finishWithoutImage_csumRx (o : SessionOutcome) (s : State) : (finishWithoutImage o s).csumRx = s.csumRx := rfl
@[simp] theorem finishWithoutImage_ack (o : SessionOutcome) (s : State) : (finishWithoutImage o s).ack = s.ack := rfl
@[simp] theorem finishWithoutImage_stat (o : SessionOutcome) (s : State) : (finishWithoutImage o s).stat = s.stat := rfl
@[simp] theorem finishWithoutImage_csumAcc (o : SessionOutcome) (s : State) : (finishWithoutImage o s).csumAcc = s.csumAcc := rfl
@[simp] theorem finishWithoutImage_palLatch (o : SessionOutcome) (s : State) : (finishWithoutImage o s).palLatch = s.palLatch := rfl
@[simp] theorem finishWithoutImage_pbuf (o : SessionOutcome) (s : State) : (finishWithoutImage o s).pbuf = s.pbuf := rfl
@[simp] theorem finishWithoutImage_vram (o : SessionOutcome) (s : State) : (finishWithoutImage o s).vram = [] := rfl
@[simp] theorem finishWithoutImage_parts (o : SessionOutcome) (s : State) : (finishWithoutImage o s).parts = [] := rfl
@[simp] theorem finishWithoutImage_raster (o : SessionOutcome) (s : State) : (finishWithoutImage o s).raster = s.raster := rfl
@[simp] theorem finishWithoutImage_outbuf (o : SessionOutcome) (s : State) : (finishWithoutImage o s).outbuf = s.outbuf := rfl
@[simp] theorem finishWithoutImage_outIdx (o : SessionOutcome) (s : State) : (finishWithoutImage o s).outIdx = s.outIdx := rfl
@[simp] theorem finishWithoutImage_idleCnt (o : SessionOutcome) (s : State) : (finishWithoutImage o s).idleCnt = s.idleCnt := rfl
@[simp] theorem finishWithoutImage_trunc (o : SessionOutcome) (s : State) : (finishWithoutImage o s).trunc = s.trunc := rfl
@[simp] theorem finishWithoutImage_rleBad (o : SessionOutcome) (s : State) : (finishWithoutImage o s).rleBad = s.rleBad := rfl
@[simp] theorem finishWithoutImage_skipAny (o : SessionOutcome) (s : State) : (finishWithoutImage o s).skipAny = s.skipAny := rfl
@[simp] theorem finishWithoutImage_fatalKind (o : SessionOutcome) (s : State) : (finishWithoutImage o s).fatalKind = s.fatalKind := rfl
@[simp] theorem finishWithoutImage_skipped (o : SessionOutcome) (s : State) : (finishWithoutImage o s).skipped = s.skipped := rfl
@[simp] theorem finishWithoutImage_partCnt (o : SessionOutcome) (s : State) : (finishWithoutImage o s).partCnt = s.partCnt := rfl
@[simp] theorem finishWithoutImage_rowsAcc (o : SessionOutcome) (s : State) : (finishWithoutImage o s).rowsAcc = s.rowsAcc := rfl
@[simp] theorem finishWithoutImage_vramLen (o : SessionOutcome) (s : State) : (finishWithoutImage o s).vramLen = s.vramLen := rfl
@[simp] theorem finishWithoutImage_storeUsed (o : SessionOutcome) (s : State) : (finishWithoutImage o s).storeUsed = s.storeUsed := rfl
@[simp] theorem finishWithoutImage_imgHeight (o : SessionOutcome) (s : State) : (finishWithoutImage o s).imgHeight = 0#32 := rfl
@[simp] theorem finishWithoutImage_pngLen (o : SessionOutcome) (s : State) : (finishWithoutImage o s).pngLen = 0#32 := rfl
@[simp] theorem finishWithoutImage_faultInfo (o : SessionOutcome) (s : State) : (finishWithoutImage o s).faultInfo = s.faultInfo := rfl
@[simp] theorem finishWithoutImage_en (o : SessionOutcome) (s : State) : (finishWithoutImage o s).en = s.en := rfl
@[simp] theorem finishWithoutImage_strict (o : SessionOutcome) (s : State) : (finishWithoutImage o s).strict = s.strict := rfl
@[simp] theorem finishWithoutImage_result (o : SessionOutcome) (s : State) : (finishWithoutImage o s).result = resultWord o s.trunc s.rleBad s.skipAny := rfl
@[simp] theorem finishWithoutImage_eventBits (o : SessionOutcome) (s : State) : (finishWithoutImage o s).eventBits = s.eventBits ||| evDone := rfl
@[simp] theorem finishWithoutImage_irqEn (o : SessionOutcome) (s : State) : (finishWithoutImage o s).irqEn = s.irqEn := rfl
@[simp] theorem finishWithoutImage_idleLimit (o : SessionOutcome) (s : State) : (finishWithoutImage o s).idleLimit = s.idleLimit := rfl
@[simp] theorem finishWithoutImage_params (o : SessionOutcome) (s : State) : (finishWithoutImage o s).params = s.params := rfl
@[simp] theorem finishWithoutImage_pending (o : SessionOutcome) (s : State) : (finishWithoutImage o s).pending = s.pending := rfl
@[simp] theorem finishWithoutImage_csrAnswer (o : SessionOutcome) (s : State) : (finishWithoutImage o s).csrAnswer = s.csrAnswer := rfl
@[simp] theorem finishWithoutImage_disconnectLevel (o : SessionOutcome) (s : State) : (finishWithoutImage o s).disconnectLevel = s.disconnectLevel := rfl
@[simp] theorem finishWithoutImage_rle (o : SessionOutcome) (s : State) : (finishWithoutImage o s).rle = s.rle := rfl

/-! ### `sessionStart` -/

@[simp] theorem sessionStart_session (s : State) : (sessionStart s).session = .receiving := rfl
@[simp] theorem sessionStart_field (s : State) : (sessionStart s).field = .magic0 := rfl
@[simp] theorem sessionStart_pidx (s : State) : (sessionStart s).pidx = s.pidx := rfl
@[simp] theorem sessionStart_magic (s : State) : (sessionStart s).magic = s.magic := rfl
@[simp] theorem sessionStart_cmd (s : State) : (sessionStart s).cmd = s.cmd := rfl
@[simp] theorem sessionStart_comp (s : State) : (sessionStart s).comp = s.comp := rfl
@[simp] theorem sessionStart_size (s : State) : (sessionStart s).size = s.size := rfl
@[simp] theorem sessionStart_csumRx (s : State) : (sessionStart s).csumRx = s.csumRx := rfl
@[simp] theorem sessionStart_ack (s : State) : (sessionStart s).ack = s.ack := rfl
@[simp] theorem sessionStart_stat (s : State) : (sessionStart s).stat = s.stat := rfl
@[simp] theorem sessionStart_csumAcc (s : State) : (sessionStart s).csumAcc = s.csumAcc := rfl
@[simp] theorem sessionStart_palLatch (s : State) : (sessionStart s).palLatch = s.palLatch := rfl
@[simp] theorem sessionStart_pbuf (s : State) : (sessionStart s).pbuf = s.pbuf := rfl
@[simp] theorem sessionStart_vram (s : State) : (sessionStart s).vram = [] := rfl
@[simp] theorem sessionStart_parts (s : State) : (sessionStart s).parts = [] := rfl
@[simp] theorem sessionStart_raster (s : State) : (sessionStart s).raster = s.raster := rfl
@[simp] theorem sessionStart_outbuf (s : State) : (sessionStart s).outbuf = s.outbuf := rfl
@[simp] theorem sessionStart_outIdx (s : State) : (sessionStart s).outIdx = s.outIdx := rfl
@[simp] theorem sessionStart_idleCnt (s : State) : (sessionStart s).idleCnt = 0#32 := rfl
@[simp] theorem sessionStart_trunc (s : State) : (sessionStart s).trunc = false := rfl
@[simp] theorem sessionStart_rleBad (s : State) : (sessionStart s).rleBad = false := rfl
@[simp] theorem sessionStart_skipAny (s : State) : (sessionStart s).skipAny = false := rfl
@[simp] theorem sessionStart_fatalKind (s : State) : (sessionStart s).fatalKind = .none := rfl
@[simp] theorem sessionStart_skipped (s : State) : (sessionStart s).skipped = 0#32 := rfl
@[simp] theorem sessionStart_partCnt (s : State) : (sessionStart s).partCnt = 0#32 := rfl
@[simp] theorem sessionStart_rowsAcc (s : State) : (sessionStart s).rowsAcc = 0#32 := rfl
@[simp] theorem sessionStart_vramLen (s : State) : (sessionStart s).vramLen = 0#32 := rfl
@[simp] theorem sessionStart_storeUsed (s : State) : (sessionStart s).storeUsed = 0#32 := rfl
@[simp] theorem sessionStart_imgHeight (s : State) : (sessionStart s).imgHeight = 0#32 := rfl
@[simp] theorem sessionStart_pngLen (s : State) : (sessionStart s).pngLen = 0#32 := rfl
@[simp] theorem sessionStart_faultInfo (s : State) : (sessionStart s).faultInfo = 0#32 := rfl
@[simp] theorem sessionStart_en (s : State) : (sessionStart s).en = s.en := rfl
@[simp] theorem sessionStart_strict (s : State) : (sessionStart s).strict = s.strict := rfl
@[simp] theorem sessionStart_result (s : State) : (sessionStart s).result = 0#32 := rfl
@[simp] theorem sessionStart_eventBits (s : State) : (sessionStart s).eventBits = s.eventBits := rfl
@[simp] theorem sessionStart_irqEn (s : State) : (sessionStart s).irqEn = s.irqEn := rfl
@[simp] theorem sessionStart_idleLimit (s : State) : (sessionStart s).idleLimit = s.idleLimit := rfl
@[simp] theorem sessionStart_params (s : State) : (sessionStart s).params = s.params := rfl
@[simp] theorem sessionStart_pending (s : State) : (sessionStart s).pending = s.pending := rfl
@[simp] theorem sessionStart_csrAnswer (s : State) : (sessionStart s).csrAnswer = s.csrAnswer := rfl
@[simp] theorem sessionStart_disconnectLevel (s : State) : (sessionStart s).disconnectLevel = s.disconnectLevel := rfl
@[simp] theorem sessionStart_rle (s : State) : (sessionStart s).rle = s.rle := rfl

/-! ### `hardReset` -/

@[simp] theorem hardReset_session (s : State) : (hardReset s).session = .idle := rfl
@[simp] theorem hardReset_field (s : State) : (hardReset s).field = .magic0 := rfl
@[simp] theorem hardReset_pidx (s : State) : (hardReset s).pidx = 0#16 := rfl
@[simp] theorem hardReset_magic (s : State) : (hardReset s).magic = 0#16 := rfl
@[simp] theorem hardReset_cmd (s : State) : (hardReset s).cmd = 0#8 := rfl
@[simp] theorem hardReset_comp (s : State) : (hardReset s).comp = 0#8 := rfl
@[simp] theorem hardReset_size (s : State) : (hardReset s).size = 0#16 := rfl
@[simp] theorem hardReset_csumRx (s : State) : (hardReset s).csumRx = 0#16 := rfl
@[simp] theorem hardReset_ack (s : State) : (hardReset s).ack = 0#8 := rfl
@[simp] theorem hardReset_stat (s : State) : (hardReset s).stat = 0#8 := rfl
@[simp] theorem hardReset_csumAcc (s : State) : (hardReset s).csumAcc = 0#16 := rfl
@[simp] theorem hardReset_palLatch (s : State) : (hardReset s).palLatch = 0#8 := rfl
@[simp] theorem hardReset_pbuf (s : State) : (hardReset s).pbuf = [] := rfl
@[simp] theorem hardReset_vram (s : State) : (hardReset s).vram = [] := rfl
@[simp] theorem hardReset_parts (s : State) : (hardReset s).parts = [] := rfl
@[simp] theorem hardReset_raster (s : State) : (hardReset s).raster = none := rfl
@[simp] theorem hardReset_outbuf (s : State) : (hardReset s).outbuf = [] := rfl
@[simp] theorem hardReset_outIdx (s : State) : (hardReset s).outIdx = 0#32 := rfl
@[simp] theorem hardReset_idleCnt (s : State) : (hardReset s).idleCnt = 0#32 := rfl
@[simp] theorem hardReset_trunc (s : State) : (hardReset s).trunc = false := rfl
@[simp] theorem hardReset_rleBad (s : State) : (hardReset s).rleBad = false := rfl
@[simp] theorem hardReset_skipAny (s : State) : (hardReset s).skipAny = false := rfl
@[simp] theorem hardReset_fatalKind (s : State) : (hardReset s).fatalKind = .none := rfl
@[simp] theorem hardReset_skipped (s : State) : (hardReset s).skipped = 0#32 := rfl
@[simp] theorem hardReset_partCnt (s : State) : (hardReset s).partCnt = 0#32 := rfl
@[simp] theorem hardReset_rowsAcc (s : State) : (hardReset s).rowsAcc = 0#32 := rfl
@[simp] theorem hardReset_vramLen (s : State) : (hardReset s).vramLen = 0#32 := rfl
@[simp] theorem hardReset_storeUsed (s : State) : (hardReset s).storeUsed = 0#32 := rfl
@[simp] theorem hardReset_imgHeight (s : State) : (hardReset s).imgHeight = 0#32 := rfl
@[simp] theorem hardReset_pngLen (s : State) : (hardReset s).pngLen = 0#32 := rfl
@[simp] theorem hardReset_faultInfo (s : State) : (hardReset s).faultInfo = 0#32 := rfl
@[simp] theorem hardReset_en (s : State) : (hardReset s).en = false := rfl
@[simp] theorem hardReset_strict (s : State) : (hardReset s).strict = true := rfl
@[simp] theorem hardReset_result (s : State) : (hardReset s).result = 0#32 := rfl
@[simp] theorem hardReset_eventBits (s : State) : (hardReset s).eventBits = 0#3 := rfl
@[simp] theorem hardReset_irqEn (s : State) : (hardReset s).irqEn = 0#3 := rfl
@[simp] theorem hardReset_idleLimit (s : State) : (hardReset s).idleLimit = s.params.idleLimitReset := rfl
@[simp] theorem hardReset_params (s : State) : (hardReset s).params = s.params := rfl
@[simp] theorem hardReset_pending (s : State) : (hardReset s).pending = s.pending := rfl
@[simp] theorem hardReset_csrAnswer (s : State) : (hardReset s).csrAnswer = .atReset := rfl
@[simp] theorem hardReset_disconnectLevel (s : State) : (hardReset s).disconnectLevel = s.disconnectLevel := rfl
@[simp] theorem hardReset_rle (s : State) : (hardReset s).rle = RleUnit.empty := rfl

/-! ### `softReset` -/

@[simp] theorem softReset_session (en strict : Bool) (s : State) : (softReset en strict s).session = .idle := rfl
@[simp] theorem softReset_field (en strict : Bool) (s : State) : (softReset en strict s).field = .magic0 := rfl
@[simp] theorem softReset_pidx (en strict : Bool) (s : State) : (softReset en strict s).pidx = 0#16 := rfl
@[simp] theorem softReset_magic (en strict : Bool) (s : State) : (softReset en strict s).magic = 0#16 := rfl
@[simp] theorem softReset_cmd (en strict : Bool) (s : State) : (softReset en strict s).cmd = 0#8 := rfl
@[simp] theorem softReset_comp (en strict : Bool) (s : State) : (softReset en strict s).comp = 0#8 := rfl
@[simp] theorem softReset_size (en strict : Bool) (s : State) : (softReset en strict s).size = 0#16 := rfl
@[simp] theorem softReset_csumRx (en strict : Bool) (s : State) : (softReset en strict s).csumRx = 0#16 := rfl
@[simp] theorem softReset_ack (en strict : Bool) (s : State) : (softReset en strict s).ack = 0#8 := rfl
@[simp] theorem softReset_stat (en strict : Bool) (s : State) : (softReset en strict s).stat = 0#8 := rfl
@[simp] theorem softReset_csumAcc (en strict : Bool) (s : State) : (softReset en strict s).csumAcc = 0#16 := rfl
@[simp] theorem softReset_palLatch (en strict : Bool) (s : State) : (softReset en strict s).palLatch = 0#8 := rfl
@[simp] theorem softReset_pbuf (en strict : Bool) (s : State) : (softReset en strict s).pbuf = [] := rfl
@[simp] theorem softReset_vram (en strict : Bool) (s : State) : (softReset en strict s).vram = [] := rfl
@[simp] theorem softReset_parts (en strict : Bool) (s : State) : (softReset en strict s).parts = [] := rfl
@[simp] theorem softReset_raster (en strict : Bool) (s : State) : (softReset en strict s).raster = none := rfl
@[simp] theorem softReset_outbuf (en strict : Bool) (s : State) : (softReset en strict s).outbuf = [] := rfl
@[simp] theorem softReset_outIdx (en strict : Bool) (s : State) : (softReset en strict s).outIdx = 0#32 := rfl
@[simp] theorem softReset_idleCnt (en strict : Bool) (s : State) : (softReset en strict s).idleCnt = 0#32 := rfl
@[simp] theorem softReset_trunc (en strict : Bool) (s : State) : (softReset en strict s).trunc = false := rfl
@[simp] theorem softReset_rleBad (en strict : Bool) (s : State) : (softReset en strict s).rleBad = false := rfl
@[simp] theorem softReset_skipAny (en strict : Bool) (s : State) : (softReset en strict s).skipAny = false := rfl
@[simp] theorem softReset_fatalKind (en strict : Bool) (s : State) : (softReset en strict s).fatalKind = .none := rfl
@[simp] theorem softReset_skipped (en strict : Bool) (s : State) : (softReset en strict s).skipped = 0#32 := rfl
@[simp] theorem softReset_partCnt (en strict : Bool) (s : State) : (softReset en strict s).partCnt = 0#32 := rfl
@[simp] theorem softReset_rowsAcc (en strict : Bool) (s : State) : (softReset en strict s).rowsAcc = 0#32 := rfl
@[simp] theorem softReset_vramLen (en strict : Bool) (s : State) : (softReset en strict s).vramLen = 0#32 := rfl
@[simp] theorem softReset_storeUsed (en strict : Bool) (s : State) : (softReset en strict s).storeUsed = 0#32 := rfl
@[simp] theorem softReset_imgHeight (en strict : Bool) (s : State) : (softReset en strict s).imgHeight = 0#32 := rfl
@[simp] theorem softReset_pngLen (en strict : Bool) (s : State) : (softReset en strict s).pngLen = 0#32 := rfl
@[simp] theorem softReset_faultInfo (en strict : Bool) (s : State) : (softReset en strict s).faultInfo = 0#32 := rfl
@[simp] theorem softReset_en (en strict : Bool) (s : State) : (softReset en strict s).en = en := rfl
@[simp] theorem softReset_strict (en strict : Bool) (s : State) : (softReset en strict s).strict = strict := rfl
@[simp] theorem softReset_result (en strict : Bool) (s : State) : (softReset en strict s).result = 0#32 := rfl
@[simp] theorem softReset_eventBits (en strict : Bool) (s : State) : (softReset en strict s).eventBits = 0#3 := rfl
@[simp] theorem softReset_irqEn (en strict : Bool) (s : State) : (softReset en strict s).irqEn = s.irqEn := rfl
@[simp] theorem softReset_idleLimit (en strict : Bool) (s : State) : (softReset en strict s).idleLimit = s.idleLimit := rfl
@[simp] theorem softReset_params (en strict : Bool) (s : State) : (softReset en strict s).params = s.params := rfl
@[simp] theorem softReset_pending (en strict : Bool) (s : State) : (softReset en strict s).pending = s.pending := rfl
@[simp] theorem softReset_csrAnswer (en strict : Bool) (s : State) : (softReset en strict s).csrAnswer = s.csrAnswer := rfl
@[simp] theorem softReset_disconnectLevel (en strict : Bool) (s : State) : (softReset en strict s).disconnectLevel = s.disconnectLevel := rfl
@[simp] theorem softReset_rle (en strict : Bool) (s : State) : (softReset en strict s).rle = RleUnit.empty := rfl

/-! ### `beginEmission` -/

@[simp] theorem beginEmission_session (s : State) : (beginEmission s).session = .emitting := rfl
@[simp] theorem beginEmission_field (s : State) : (beginEmission s).field = s.field := rfl
@[simp] theorem beginEmission_pidx (s : State) : (beginEmission s).pidx = s.pidx := rfl
@[simp] theorem beginEmission_magic (s : State) : (beginEmission s).magic = s.magic := rfl
@[simp] theorem beginEmission_cmd (s : State) : (beginEmission s).cmd = s.cmd := rfl
@[simp] theorem beginEmission_comp (s : State) : (beginEmission s).comp = s.comp := rfl
@[simp] theorem beginEmission_size (s : State) : (beginEmission s).size = s.size := rfl
@[simp] theorem beginEmission_csumRx (s : State) : (beginEmission s).csumRx = s.csumRx := rfl
@[simp] theorem beginEmission_ack (s : State) : (beginEmission s).ack = s.ack := rfl
@[simp] theorem beginEmission_stat (s : State) : (beginEmission s).stat = s.stat := rfl
@[simp] theorem beginEmission_csumAcc (s : State) : (beginEmission s).csumAcc = s.csumAcc := rfl
@[simp] theorem beginEmission_palLatch (s : State) : (beginEmission s).palLatch = s.palLatch := rfl
@[simp] theorem beginEmission_pbuf (s : State) : (beginEmission s).pbuf = s.pbuf := rfl
@[simp] theorem beginEmission_vram (s : State) : (beginEmission s).vram = [] := rfl
@[simp] theorem beginEmission_parts (s : State) : (beginEmission s).parts = [] := rfl
@[simp] theorem beginEmission_raster (s : State) : (beginEmission s).raster = some (compose s.parts (imageHeight s.rowsAcc)) := rfl
@[simp] theorem beginEmission_outbuf (s : State) : (beginEmission s).outbuf = pngBytes s.params (imageHeight s.rowsAcc) (compose s.parts (imageHeight s.rowsAcc)) := rfl
@[simp] theorem beginEmission_outIdx (s : State) : (beginEmission s).outIdx = 0#32 := rfl
@[simp] theorem beginEmission_idleCnt (s : State) : (beginEmission s).idleCnt = s.idleCnt := rfl
@[simp] theorem beginEmission_trunc (s : State) : (beginEmission s).trunc = s.trunc := rfl
@[simp] theorem beginEmission_rleBad (s : State) : (beginEmission s).rleBad = s.rleBad := rfl
@[simp] theorem beginEmission_skipAny (s : State) : (beginEmission s).skipAny = s.skipAny := rfl
@[simp] theorem beginEmission_fatalKind (s : State) : (beginEmission s).fatalKind = s.fatalKind := rfl
@[simp] theorem beginEmission_skipped (s : State) : (beginEmission s).skipped = s.skipped := rfl
@[simp] theorem beginEmission_partCnt (s : State) : (beginEmission s).partCnt = s.partCnt := rfl
@[simp] theorem beginEmission_rowsAcc (s : State) : (beginEmission s).rowsAcc = s.rowsAcc := rfl
@[simp] theorem beginEmission_vramLen (s : State) : (beginEmission s).vramLen = s.vramLen := rfl
@[simp] theorem beginEmission_storeUsed (s : State) : (beginEmission s).storeUsed = s.storeUsed := rfl
@[simp] theorem beginEmission_imgHeight (s : State) : (beginEmission s).imgHeight = heightWord (imageHeight s.rowsAcc) := rfl
@[simp] theorem beginEmission_pngLen (s : State) : (beginEmission s).pngLen = BitVec.ofNat 32 (pngBytes s.params (imageHeight s.rowsAcc) (compose s.parts (imageHeight s.rowsAcc))).length := rfl
@[simp] theorem beginEmission_faultInfo (s : State) : (beginEmission s).faultInfo = s.faultInfo := rfl
@[simp] theorem beginEmission_en (s : State) : (beginEmission s).en = s.en := rfl
@[simp] theorem beginEmission_strict (s : State) : (beginEmission s).strict = s.strict := rfl
@[simp] theorem beginEmission_result (s : State) : (beginEmission s).result = resultWord .image s.trunc s.rleBad s.skipAny := rfl
@[simp] theorem beginEmission_eventBits (s : State) : (beginEmission s).eventBits = s.eventBits := rfl
@[simp] theorem beginEmission_irqEn (s : State) : (beginEmission s).irqEn = s.irqEn := rfl
@[simp] theorem beginEmission_idleLimit (s : State) : (beginEmission s).idleLimit = s.idleLimit := rfl
@[simp] theorem beginEmission_params (s : State) : (beginEmission s).params = s.params := rfl
@[simp] theorem beginEmission_pending (s : State) : (beginEmission s).pending = s.pending := rfl
@[simp] theorem beginEmission_csrAnswer (s : State) : (beginEmission s).csrAnswer = s.csrAnswer := rfl
@[simp] theorem beginEmission_disconnectLevel (s : State) : (beginEmission s).disconnectLevel = s.disconnectLevel := rfl
@[simp] theorem beginEmission_rle (s : State) : (beginEmission s).rle = s.rle := rfl

/-! ### `sizeOverflow` -/

@[simp] theorem sizeOverflow_session (s : State) : (sizeOverflow s).session = .idle := rfl
@[simp] theorem sizeOverflow_field (s : State) : (sizeOverflow s).field = s.field := rfl
@[simp] theorem sizeOverflow_pidx (s : State) : (sizeOverflow s).pidx = s.pidx := rfl
@[simp] theorem sizeOverflow_magic (s : State) : (sizeOverflow s).magic = s.magic := rfl
@[simp] theorem sizeOverflow_cmd (s : State) : (sizeOverflow s).cmd = s.cmd := rfl
@[simp] theorem sizeOverflow_comp (s : State) : (sizeOverflow s).comp = s.comp := rfl
@[simp] theorem sizeOverflow_size (s : State) : (sizeOverflow s).size = s.size := rfl
@[simp] theorem sizeOverflow_csumRx (s : State) : (sizeOverflow s).csumRx = s.csumRx := rfl
@[simp] theorem sizeOverflow_ack (s : State) : (sizeOverflow s).ack = s.ack := rfl
@[simp] theorem sizeOverflow_stat (s : State) : (sizeOverflow s).stat = s.stat := rfl
@[simp] theorem sizeOverflow_csumAcc (s : State) : (sizeOverflow s).csumAcc = s.csumAcc := rfl
@[simp] theorem sizeOverflow_palLatch (s : State) : (sizeOverflow s).palLatch = s.palLatch := rfl
@[simp] theorem sizeOverflow_pbuf (s : State) : (sizeOverflow s).pbuf = s.pbuf := rfl
@[simp] theorem sizeOverflow_vram (s : State) : (sizeOverflow s).vram = [] := rfl
@[simp] theorem sizeOverflow_parts (s : State) : (sizeOverflow s).parts = [] := rfl
@[simp] theorem sizeOverflow_raster (s : State) : (sizeOverflow s).raster = s.raster := rfl
@[simp] theorem sizeOverflow_outbuf (s : State) : (sizeOverflow s).outbuf = s.outbuf := rfl
@[simp] theorem sizeOverflow_outIdx (s : State) : (sizeOverflow s).outIdx = s.outIdx := rfl
@[simp] theorem sizeOverflow_idleCnt (s : State) : (sizeOverflow s).idleCnt = s.idleCnt := rfl
@[simp] theorem sizeOverflow_trunc (s : State) : (sizeOverflow s).trunc = s.trunc := rfl
@[simp] theorem sizeOverflow_rleBad (s : State) : (sizeOverflow s).rleBad = s.rleBad := rfl
@[simp] theorem sizeOverflow_skipAny (s : State) : (sizeOverflow s).skipAny = s.skipAny := rfl
@[simp] theorem sizeOverflow_fatalKind (s : State) : (sizeOverflow s).fatalKind = .overflow := rfl
@[simp] theorem sizeOverflow_skipped (s : State) : (sizeOverflow s).skipped = s.skipped := rfl
@[simp] theorem sizeOverflow_partCnt (s : State) : (sizeOverflow s).partCnt = s.partCnt := rfl
@[simp] theorem sizeOverflow_rowsAcc (s : State) : (sizeOverflow s).rowsAcc = s.rowsAcc := rfl
@[simp] theorem sizeOverflow_vramLen (s : State) : (sizeOverflow s).vramLen = s.vramLen := rfl
@[simp] theorem sizeOverflow_storeUsed (s : State) : (sizeOverflow s).storeUsed = s.storeUsed := rfl
@[simp] theorem sizeOverflow_imgHeight (s : State) : (sizeOverflow s).imgHeight = 0#32 := rfl
@[simp] theorem sizeOverflow_pngLen (s : State) : (sizeOverflow s).pngLen = 0#32 := rfl
@[simp] theorem sizeOverflow_faultInfo (s : State) : (sizeOverflow s).faultInfo = 0#32 := rfl
@[simp] theorem sizeOverflow_en (s : State) : (sizeOverflow s).en = s.en := rfl
@[simp] theorem sizeOverflow_strict (s : State) : (sizeOverflow s).strict = s.strict := rfl
@[simp] theorem sizeOverflow_result (s : State) : (sizeOverflow s).result = resultWord .overflow s.trunc s.rleBad s.skipAny := rfl
@[simp] theorem sizeOverflow_eventBits (s : State) : (sizeOverflow s).eventBits = s.eventBits ||| evFatal ||| evDone := rfl
@[simp] theorem sizeOverflow_irqEn (s : State) : (sizeOverflow s).irqEn = s.irqEn := rfl
@[simp] theorem sizeOverflow_idleLimit (s : State) : (sizeOverflow s).idleLimit = s.idleLimit := rfl
@[simp] theorem sizeOverflow_params (s : State) : (sizeOverflow s).params = s.params := rfl
@[simp] theorem sizeOverflow_pending (s : State) : (sizeOverflow s).pending = s.pending := rfl
@[simp] theorem sizeOverflow_csrAnswer (s : State) : (sizeOverflow s).csrAnswer = s.csrAnswer := rfl
@[simp] theorem sizeOverflow_disconnectLevel (s : State) : (sizeOverflow s).disconnectLevel = s.disconnectLevel := rfl
@[simp] theorem sizeOverflow_rle (s : State) : (sizeOverflow s).rle = s.rle := rfl

/-! ### `endEmission` -/

@[simp] theorem endEmission_session (s : State) : (endEmission s).session = .idle := rfl
@[simp] theorem endEmission_field (s : State) : (endEmission s).field = s.field := rfl
@[simp] theorem endEmission_pidx (s : State) : (endEmission s).pidx = s.pidx := rfl
@[simp] theorem endEmission_magic (s : State) : (endEmission s).magic = s.magic := rfl
@[simp] theorem endEmission_cmd (s : State) : (endEmission s).cmd = s.cmd := rfl
@[simp] theorem endEmission_comp (s : State) : (endEmission s).comp = s.comp := rfl
@[simp] theorem endEmission_size (s : State) : (endEmission s).size = s.size := rfl
@[simp] theorem endEmission_csumRx (s : State) : (endEmission s).csumRx = s.csumRx := rfl
@[simp] theorem endEmission_ack (s : State) : (endEmission s).ack = s.ack := rfl
@[simp] theorem endEmission_stat (s : State) : (endEmission s).stat = s.stat := rfl
@[simp] theorem endEmission_csumAcc (s : State) : (endEmission s).csumAcc = s.csumAcc := rfl
@[simp] theorem endEmission_palLatch (s : State) : (endEmission s).palLatch = s.palLatch := rfl
@[simp] theorem endEmission_pbuf (s : State) : (endEmission s).pbuf = s.pbuf := rfl
@[simp] theorem endEmission_vram (s : State) : (endEmission s).vram = s.vram := rfl
@[simp] theorem endEmission_parts (s : State) : (endEmission s).parts = s.parts := rfl
@[simp] theorem endEmission_raster (s : State) : (endEmission s).raster = none := rfl
@[simp] theorem endEmission_outbuf (s : State) : (endEmission s).outbuf = [] := rfl
@[simp] theorem endEmission_outIdx (s : State) : (endEmission s).outIdx = 0#32 := rfl
@[simp] theorem endEmission_idleCnt (s : State) : (endEmission s).idleCnt = s.idleCnt := rfl
@[simp] theorem endEmission_trunc (s : State) : (endEmission s).trunc = s.trunc := rfl
@[simp] theorem endEmission_rleBad (s : State) : (endEmission s).rleBad = s.rleBad := rfl
@[simp] theorem endEmission_skipAny (s : State) : (endEmission s).skipAny = s.skipAny := rfl
@[simp] theorem endEmission_fatalKind (s : State) : (endEmission s).fatalKind = s.fatalKind := rfl
@[simp] theorem endEmission_skipped (s : State) : (endEmission s).skipped = s.skipped := rfl
@[simp] theorem endEmission_partCnt (s : State) : (endEmission s).partCnt = s.partCnt := rfl
@[simp] theorem endEmission_rowsAcc (s : State) : (endEmission s).rowsAcc = s.rowsAcc := rfl
@[simp] theorem endEmission_vramLen (s : State) : (endEmission s).vramLen = s.vramLen := rfl
@[simp] theorem endEmission_storeUsed (s : State) : (endEmission s).storeUsed = s.storeUsed := rfl
@[simp] theorem endEmission_imgHeight (s : State) : (endEmission s).imgHeight = s.imgHeight := rfl
@[simp] theorem endEmission_pngLen (s : State) : (endEmission s).pngLen = s.pngLen := rfl
@[simp] theorem endEmission_faultInfo (s : State) : (endEmission s).faultInfo = s.faultInfo := rfl
@[simp] theorem endEmission_en (s : State) : (endEmission s).en = s.en := rfl
@[simp] theorem endEmission_strict (s : State) : (endEmission s).strict = s.strict := rfl
@[simp] theorem endEmission_result (s : State) : (endEmission s).result = s.result := rfl
@[simp] theorem endEmission_eventBits (s : State) : (endEmission s).eventBits = s.eventBits ||| evDone ||| evImage := rfl
@[simp] theorem endEmission_irqEn (s : State) : (endEmission s).irqEn = s.irqEn := rfl
@[simp] theorem endEmission_idleLimit (s : State) : (endEmission s).idleLimit = s.idleLimit := rfl
@[simp] theorem endEmission_params (s : State) : (endEmission s).params = s.params := rfl
@[simp] theorem endEmission_pending (s : State) : (endEmission s).pending = s.pending := rfl
@[simp] theorem endEmission_csrAnswer (s : State) : (endEmission s).csrAnswer = s.csrAnswer := rfl
@[simp] theorem endEmission_disconnectLevel (s : State) : (endEmission s).disconnectLevel = s.disconnectLevel := rfl
@[simp] theorem endEmission_rle (s : State) : (endEmission s).rle = s.rle := rfl

/-! ### `beginEvent` -/

@[simp] theorem beginEvent_session (rest : List Event) (s : State) : (beginEvent rest s).session = s.session := rfl
@[simp] theorem beginEvent_field (rest : List Event) (s : State) : (beginEvent rest s).field = s.field := rfl
@[simp] theorem beginEvent_pidx (rest : List Event) (s : State) : (beginEvent rest s).pidx = s.pidx := rfl
@[simp] theorem beginEvent_magic (rest : List Event) (s : State) : (beginEvent rest s).magic = s.magic := rfl
@[simp] theorem beginEvent_cmd (rest : List Event) (s : State) : (beginEvent rest s).cmd = s.cmd := rfl
@[simp] theorem beginEvent_comp (rest : List Event) (s : State) : (beginEvent rest s).comp = s.comp := rfl
@[simp] theorem beginEvent_size (rest : List Event) (s : State) : (beginEvent rest s).size = s.size := rfl
@[simp] theorem beginEvent_csumRx (rest : List Event) (s : State) : (beginEvent rest s).csumRx = s.csumRx := rfl
@[simp] theorem beginEvent_ack (rest : List Event) (s : State) : (beginEvent rest s).ack = s.ack := rfl
@[simp] theorem beginEvent_stat (rest : List Event) (s : State) : (beginEvent rest s).stat = s.stat := rfl
@[simp] theorem beginEvent_csumAcc (rest : List Event) (s : State) : (beginEvent rest s).csumAcc = s.csumAcc := rfl
@[simp] theorem beginEvent_palLatch (rest : List Event) (s : State) : (beginEvent rest s).palLatch = s.palLatch := rfl
@[simp] theorem beginEvent_pbuf (rest : List Event) (s : State) : (beginEvent rest s).pbuf = s.pbuf := rfl
@[simp] theorem beginEvent_vram (rest : List Event) (s : State) : (beginEvent rest s).vram = s.vram := rfl
@[simp] theorem beginEvent_parts (rest : List Event) (s : State) : (beginEvent rest s).parts = s.parts := rfl
@[simp] theorem beginEvent_raster (rest : List Event) (s : State) : (beginEvent rest s).raster = s.raster := rfl
@[simp] theorem beginEvent_outbuf (rest : List Event) (s : State) : (beginEvent rest s).outbuf = s.outbuf := rfl
@[simp] theorem beginEvent_outIdx (rest : List Event) (s : State) : (beginEvent rest s).outIdx = s.outIdx := rfl
@[simp] theorem beginEvent_idleCnt (rest : List Event) (s : State) : (beginEvent rest s).idleCnt = s.idleCnt := rfl
@[simp] theorem beginEvent_trunc (rest : List Event) (s : State) : (beginEvent rest s).trunc = s.trunc := rfl
@[simp] theorem beginEvent_rleBad (rest : List Event) (s : State) : (beginEvent rest s).rleBad = s.rleBad := rfl
@[simp] theorem beginEvent_skipAny (rest : List Event) (s : State) : (beginEvent rest s).skipAny = s.skipAny := rfl
@[simp] theorem beginEvent_fatalKind (rest : List Event) (s : State) : (beginEvent rest s).fatalKind = s.fatalKind := rfl
@[simp] theorem beginEvent_skipped (rest : List Event) (s : State) : (beginEvent rest s).skipped = s.skipped := rfl
@[simp] theorem beginEvent_partCnt (rest : List Event) (s : State) : (beginEvent rest s).partCnt = s.partCnt := rfl
@[simp] theorem beginEvent_rowsAcc (rest : List Event) (s : State) : (beginEvent rest s).rowsAcc = s.rowsAcc := rfl
@[simp] theorem beginEvent_vramLen (rest : List Event) (s : State) : (beginEvent rest s).vramLen = s.vramLen := rfl
@[simp] theorem beginEvent_storeUsed (rest : List Event) (s : State) : (beginEvent rest s).storeUsed = s.storeUsed := rfl
@[simp] theorem beginEvent_imgHeight (rest : List Event) (s : State) : (beginEvent rest s).imgHeight = s.imgHeight := rfl
@[simp] theorem beginEvent_pngLen (rest : List Event) (s : State) : (beginEvent rest s).pngLen = s.pngLen := rfl
@[simp] theorem beginEvent_faultInfo (rest : List Event) (s : State) : (beginEvent rest s).faultInfo = s.faultInfo := rfl
@[simp] theorem beginEvent_en (rest : List Event) (s : State) : (beginEvent rest s).en = s.en := rfl
@[simp] theorem beginEvent_strict (rest : List Event) (s : State) : (beginEvent rest s).strict = s.strict := rfl
@[simp] theorem beginEvent_result (rest : List Event) (s : State) : (beginEvent rest s).result = s.result := rfl
@[simp] theorem beginEvent_eventBits (rest : List Event) (s : State) : (beginEvent rest s).eventBits = s.eventBits := rfl
@[simp] theorem beginEvent_irqEn (rest : List Event) (s : State) : (beginEvent rest s).irqEn = s.irqEn := rfl
@[simp] theorem beginEvent_idleLimit (rest : List Event) (s : State) : (beginEvent rest s).idleLimit = s.idleLimit := rfl
@[simp] theorem beginEvent_params (rest : List Event) (s : State) : (beginEvent rest s).params = s.params := rfl
@[simp] theorem beginEvent_pending (rest : List Event) (s : State) : (beginEvent rest s).pending = rest := rfl
@[simp] theorem beginEvent_csrAnswer (rest : List Event) (s : State) : (beginEvent rest s).csrAnswer = .quiet := rfl
@[simp] theorem beginEvent_disconnectLevel (rest : List Event) (s : State) : (beginEvent rest s).disconnectLevel = s.disconnectLevel := rfl
@[simp] theorem beginEvent_rle (rest : List Event) (s : State) : (beginEvent rest s).rle = s.rle := rfl

end Sys2Proof.Machine
end

