-- ==== Sys2Proof/Laws/Ops.lean ====
section
/-! SUPPORT. Small lemmas about bits and one lemma per shared operation that says once everything it can do. -/

namespace Sys2Proof.Machine

/-! ### Bits and numbers -/

theorem getLsbD_zero_eq {w : Nat} (b : BitVec w) : b.getLsbD 0 = decide (b.toNat % 2 = 1) := by
  simp [BitVec.getLsbD, Nat.testBit_zero]

/-- `sat32` as a number (00_scope.md R12). -/
theorem satInc_eq (w : Word) : satInc w = BitVec.ofNat 32 (min (w.toNat + 1) 4294967295) := by
  unfold satInc
  split_ifs with h
  · rw [h]; decide
  · apply BitVec.eq_of_toNat_eq
    have h1 := w.isLt
    have h2 : w.toNat ≠ 4294967295 := fun e => h (BitVec.eq_of_toNat_eq (by simpa using e))
    simp [BitVec.toNat_add]; omega

theorem satInc_toNat (w : Word) : (satInc w).toNat = min (w.toNat + 1) 4294967295 := by
  rw [satInc_eq]; simp

/-- A 16-bit field assembled as the framer does it (20_memory.md R101). -/
theorem low_or_high_eq (a b : Byte) : (low16 a ||| high16 b : Half) = BitVec.ofNat 16 (a.toNat + 256 * b.toNat) := by
  apply BitVec.eq_of_toNat_eq
  have ha := a.isLt
  have hb := b.isLt
  have h1 : (a.toNat ||| b.toNat <<< 8) = a.toNat + 256 * b.toNat := by
    rw [Nat.or_comm, ← Nat.shiftLeft_add_eq_or_of_lt (by omega), Nat.shiftLeft_eq]; omega
  simp only [low16, high16, BitVec.toNat_or, BitVec.toNat_shiftLeft, BitVec.toNat_setWidth, BitVec.toNat_ofNat]
  rw [Nat.mod_eq_of_lt (a := a.toNat) (by omega), Nat.mod_eq_of_lt (a := b.toNat) (by omega),
    Nat.mod_eq_of_lt (a := b.toNat <<< 8) (by rw [Nat.shiftLeft_eq]; omega), h1]
  omega

/-- The decoder's `LE16` is the framer's (00_scope.md R13). -/
theorem le16_eq (a b : Byte) : le16 a b = BitVec.ofNat 16 (a.toNat + 256 * b.toNat) := by
  apply BitVec.eq_of_toNat_eq
  have ha := a.isLt
  have hb := b.isLt
  rw [le16, BitVec.toNat_append, BitVec.toNat_ofNat, ← Nat.shiftLeft_add_eq_or_of_lt (by omega), Nat.shiftLeft_eq]; omega

theorem le16_lo8_hi8 (h : Half) : le16 (lo8 h) (hi8 h) = h := by
  rw [le16_eq]
  apply BitVec.eq_of_toNat_eq
  have := h.isLt
  simp only [lo8, hi8, BitVec.extractLsb'_toNat, Nat.shiftRight_eq_div_pow, BitVec.toNat_ofNat]; omega

theorem lo8_le16 (a b : Byte) : lo8 (le16 a b) = a := by
  rw [le16_eq]
  apply BitVec.eq_of_toNat_eq
  have := a.isLt
  have := b.isLt
  simp only [lo8, BitVec.extractLsb'_toNat, Nat.shiftRight_eq_div_pow, BitVec.toNat_ofNat]; omega

theorem hi8_le16 (a b : Byte) : hi8 (le16 a b) = b := by
  rw [le16_eq]
  apply BitVec.eq_of_toNat_eq
  have := a.isLt
  have := b.isLt
  simp only [hi8, BitVec.extractLsb'_toNat, Nat.shiftRight_eq_div_pow, BitVec.toNat_ofNat]; omega

/-- A sum over a sequence with one more byte (40_framer.md R191, R192). -/
theorem sumBytes_append_single (bs : List Byte) (b : Byte) (acc : Half) :
    sumBytes acc (bs ++ [b]) = sumBytes acc bs + b.setWidth 16 := by
  induction bs generalizing acc with
  | nil => rfl
  | cons c cs ih => simpa [sumBytes] using ih _

/-! ### What the shared operations can do -/

@[simp] theorem onNext_next (s : State) (f : State → Outcome) : onNext (.next s) f = f s := rfl

/-- Inversion of a sequence of outcomes. -/
theorem onNext_eq_next {o : Outcome} {f : State → Outcome} {t : State} (h : onNext o f = .next t) :
    ∃ s, o = .next s ∧ f s = .next t := by
  cases o with
  | next s => exact ⟨s, rfl, h⟩
  | fault r => cases r
  | refused r => simp [onNext] at h

/-- The append, or the abort (41_commands.md R223 to R226). -/
theorem storeAppend_cases (d : List Byte) (s : State) :
    (s.storeUsed.toNat + d.length ≤ s.params.storeBytes.toNat ∧ storeAppend d s = appendVram d s) ∨
    (s.params.storeBytes.toNat < s.storeUsed.toNat + d.length ∧ storeAppend d s = raiseFatal .overflow 4#32 s) := by
  unfold storeAppend storeFits
  by_cases h : s.storeUsed.toNat + d.length ≤ s.params.storeBytes.toNat
  · exact .inl ⟨h, by simp [h]⟩
  · exact .inr ⟨by omega, by simp [h, Config.cmdFill]⟩

/-- ROWS_ACC's sum where it fits (41_commands.md R227). -/
theorem addRows_toNat {acc : Word} {n : Nat} (h : acc.toNat + n < 4294967296) : (addRows acc n).toNat = acc.toNat + n := by
  simp only [addRows, h, if_true, BitVec.toNat_ofNat]; omega

/-- The framer's close: nothing at a packet boundary, else the partial packet is discarded (40_framer.md R200). -/
theorem closeFramer_cases (s : State) :
    (s.field = .magic0 ∧ closeFramer s = s) ∨
    (s.field ≠ .magic0 ∧ closeFramer s = { s with trunc := true, pbuf := [], field := .magic0 }) := by
  unfold closeFramer
  by_cases h : s.field = .magic0
  · exact .inl ⟨h, by simp [h]⟩
  · exact .inr ⟨h, by simp [h]⟩

/-- The end event (45_session.md R347 to R349). -/
theorem endEvent_cases (s : State) :
    (s.session = .receiving ∧ s.field = .magic0 ∧ endEvent s = { s with session := .finalizing, idleCnt := 0#32 }) ∨
    (s.session = .receiving ∧ s.field ≠ .magic0 ∧
      endEvent s = { s with trunc := true, pbuf := [], field := .magic0, session := .finalizing, idleCnt := 0#32 }) ∨
    (s.session = .aborted ∧ endEvent s = { s with session := .finalizing, idleCnt := 0#32 }) ∨
    (s.isOpen = false ∧ endEvent s = s) := by
  have hopen : ∀ x, s.session = x → s.isOpen = (x == .receiving || x == .aborted) := fun x h => by rw [State.isOpen, h]
  cases h : s.session with
  | idle => exact .inr (.inr (.inr ⟨hopen _ h, by rw [endEvent, h]⟩))
  | receiving =>
    rcases closeFramer_cases s with ⟨hf, hc⟩ | ⟨hf, hc⟩
    · exact .inl ⟨rfl, hf, by rw [endEvent, h]; simp only [hc]⟩
    · exact .inr (.inl ⟨rfl, hf, by rw [endEvent, h]; simp only [hc]⟩)
  | aborted => exact .inr (.inr (.inl ⟨rfl, by rw [endEvent, h]⟩))
  | finalizing => exact .inr (.inr (.inr ⟨hopen _ h, by rw [endEvent, h]⟩))
  | emitting => exact .inr (.inr (.inr ⟨hopen _ h, by rw [endEvent, h]⟩))

/-- The timeout's condition (45_session.md R344, R345). -/
theorem timedOut_eq_true {s : State} :
    timedOut s = true ↔ s.isOpen = true ∧ s.idleLimit ≠ 0#32 ∧ s.idleLimit.toNat ≤ s.idleCnt.toNat := by
  simp [timedOut, BitVec.ule, and_assoc]

/-- The timeout check: the end event, or nothing (45_session.md R345). -/
theorem timeoutCheck_cases (s : State) :
    (timedOut s = true ∧ timeoutCheck s = endEvent s) ∨ (timedOut s = false ∧ timeoutCheck s = s) := by
  unfold timeoutCheck
  rcases h : timedOut s <;> simp

/-- An RLE code changes the working variables only, and reads nothing else of the state. -/
theorem execCode_eq (i : Instr) (u : RleUnit) : ∃ v, ∀ s : State, execCode i { s with rle := u } = .next { s with rle := v } := by
  cases i with
  | rleRun n v =>
    cases v with
    | none => exact ⟨{ u with bad := true }, fun _ => rfl⟩
    | some b => exact ⟨{ u with out := u.out ++ List.replicate (runLength n) b }, fun _ => rfl⟩
  | rleLit n bytes =>
    simp only [execCode, execRleLit]
    split_ifs
    · exact ⟨_, fun _ => rfl⟩
    · exact ⟨_, fun _ => rfl⟩
  | init _ _ => exact ⟨u, fun _ => rfl⟩
  | print _ _ => exact ⟨u, fun _ => rfl⟩
  | fillRaw _ => exact ⟨u, fun _ => rfl⟩
  | fillRle _ _ => exact ⟨u, fun _ => rfl⟩
  | status _ _ => exact ⟨u, fun _ => rfl⟩
  | other _ _ _ => exact ⟨u, fun _ => rfl⟩

theorem execCode_next (i : Instr) (s : State) : ∃ u, execCode i s = .next { s with rle := u } :=
  (execCode_eq i s.rle).imp fun _ h => h s

/-- The decompressor changes the working variables only, and reads nothing else of the state (42_rle.md R240). -/
theorem rleLoop_eq_next (fuel : Nat) (payload : List Byte) (u : RleUnit) :
    ∃ v, ∀ s : State, rleLoop fuel payload { s with rle := u } = .next { s with rle := v } := by
  induction fuel generalizing payload u with
  | zero => exact ⟨u, fun _ => rfl⟩
  | succ fuel ih =>
    simp only [rleLoop]
    split
    · exact ⟨u, fun _ => rfl⟩
    · rename_i i rest _
      obtain ⟨v, hv⟩ := execCode_eq i u
      simp only [hv, onNext_next]
      split_ifs
      · exact ⟨v, fun _ => rfl⟩
      · exact ih rest v

/-- rle_decompress of a payload is a pair of working variables that the payload alone determines (42_rle.md R240). -/
theorem runDecompressor_eq (payload : List Byte) :
    ∃ u, ∀ s : State, runDecompressor payload s = .next { s with rle := u } :=
  rleLoop_eq_next payload.length payload RleUnit.empty

/-- FILL.RLE is the append of the decompressor's output, with RLE_BAD set where bad is (41_commands.md R224). -/
theorem execFillRle_eq (payload : List Byte) :
    ∃ u, ∀ s : State, runDecompressor payload s = .next { s with rle := u } ∧
      execFillRle payload s =
        .next (storeAppend u.out { s with rleBad := s.rleBad || u.bad, rle := RleUnit.empty }) := by
  obtain ⟨u, hu⟩ := runDecompressor_eq payload
  exact ⟨u, fun s => ⟨hu s, by simp [execFillRle, hu]⟩⟩

/-- Everything a command or code can do, by instruction (41_commands.md R221 to R230, 42_rle.md R241 to R244). -/
theorem exec_cases {i : Instr} {s t : State} (h : exec i s = .next t) :
    (∃ comp payload, i = .init comp payload ∧ t = { s with vram := [], vramLen := 0#32 }) ∨
    (∃ comp payload, i = .print comp payload ∧ s.partCnt = s.params.maxParts ∧ t = raiseFatal .overflow 2#32 s) ∨
    (∃ comp payload, i = .print comp payload ∧ s.partCnt ≠ s.params.maxParts ∧
      t = { s with
            parts := s.parts ++ [{ pal := s.palLatch, tiles := s.vram }]
            partCnt := s.partCnt + 1#32
            rowsAcc := addRows s.rowsAcc (tileRows s.vram) }) ∨
    (∃ payload, i = .fillRaw payload ∧ t = storeAppend payload s) ∨
    (∃ comp payload u, i = .fillRle comp payload ∧ runDecompressor payload s = .next { s with rle := u } ∧
      t = storeAppend u.out { s with rleBad := s.rleBad || u.bad, rle := RleUnit.empty }) ∨
    (∃ comp payload, i = .status comp payload ∧ t = s) ∨
    (∃ cmd comp payload, i = .other cmd comp payload ∧ t = s) ∨
    (∃ u, i.codeSet = .rle ∧ t = { s with rle := u }) := by
  cases i with
  | init c p => exact .inl ⟨c, p, rfl, by simpa [exec, execInit] using h.symm⟩
  | print c p =>
    simp only [exec, execPrint] at h
    split_ifs at h with hm
    · exact .inr (.inl ⟨c, p, rfl, hm, by simpa [Config.cmdPrint] using h.symm⟩)
    · exact .inr (.inr (.inl ⟨c, p, rfl, hm, by simpa using h.symm⟩))
  | fillRaw p => exact .inr (.inr (.inr (.inl ⟨p, rfl, by simpa [exec, execFillRaw] using h.symm⟩)))
  | fillRle c p =>
    obtain ⟨u, hu, he⟩ := (execFillRle_eq p).imp fun _ h => h s
    exact .inr (.inr (.inr (.inr (.inl ⟨c, p, u, rfl, hu, by simpa [exec, he] using h.symm⟩))))
  | status c p => exact .inr (.inr (.inr (.inr (.inr (.inl ⟨c, p, rfl, by simpa [exec, execStatus] using h.symm⟩)))))
  | other d c p =>
    exact .inr (.inr (.inr (.inr (.inr (.inr (.inl ⟨d, c, p, rfl, by simpa [exec, execOther] using h.symm⟩))))))
  | rleRun n v =>
    obtain ⟨u, hu⟩ := execCode_next (.rleRun n v) s
    exact .inr (.inr (.inr (.inr (.inr (.inr (.inr ⟨u, rfl, Host.Outcome.next.inj (h.symm.trans hu)⟩))))))
  | rleLit n b =>
    obtain ⟨u, hu⟩ := execCode_next (.rleLit n b) s
    exact .inr (.inr (.inr (.inr (.inr (.inr (.inr ⟨u, rfl, Host.Outcome.next.inj (h.symm.trans hu)⟩))))))

end Sys2Proof.Machine
end

