-- ==== Sys2Proof/Laws/Block.lean ====
section
/-! SUPPORT. The fields of `State` beside the block of 10_state.md R30 are no state of the block: what an event does to the block
and to the configuration depends on those two and the event alone. -/

namespace Sys2Proof.Machine

open Sys2Proof.Safety

/-- Two states with one block and one configuration, and, where `lvl` holds, one level of the disconnect input. -/
def SameBlock (lvl : Prop) (s t : State) : Prop :=
  s.toBlock = t.toBlock ∧ s.params = t.params ∧ (lvl → s.disconnectLevel = t.disconnectLevel)

/-- Both outcomes are next states, with one block and one configuration. -/
def SameOutcome (lvl : Prop) (o p : Outcome) : Prop := ∃ s t, o = .next s ∧ p = .next t ∧ SameBlock lvl s t

variable {lvl : Prop} {s t : State}

/-- An operation that reads and writes the block and the configuration only. -/
theorem SameBlock.of_eq {f : State → State} (h : SameBlock lvl s t)
    (hf : ∀ (b : Block) (q : Config.Params) (p1 p2 : List Event) (a1 a2 : CsrAnswer) (l1 l2 : Bool) (r1 r2 : RleUnit),
      (f ⟨b, q, p1, a1, l1, r1⟩).toBlock = (f ⟨b, q, p2, a2, l2, r2⟩).toBlock ∧
      (f ⟨b, q, p1, a1, l1, r1⟩).params = (f ⟨b, q, p2, a2, l2, r2⟩).params ∧
      (f ⟨b, q, p1, a1, l1, r1⟩).disconnectLevel = l1 ∧ (f ⟨b, q, p2, a2, l2, r2⟩).disconnectLevel = l2) :
    SameBlock lvl (f s) (f t) := by
  obtain ⟨b, q, p1, a1, l1, r1⟩ := s
  obtain ⟨b2, q2, p2, a2, l2, r2⟩ := t
  obtain ⟨hb, hq, hl⟩ := h
  subst hb hq
  obtain ⟨h1, h2, h3, h4⟩ := hf b q p1 p2 a1 a2 l1 l2 r1 r2
  exact ⟨h1, h2, fun x => by rw [h3, h4]; exact hl x⟩

theorem SameBlock.endEvent (h : SameBlock lvl s t) : SameBlock lvl (endEvent s) (endEvent t) := by
  refine h.of_eq fun b q p1 p2 a1 a2 l1 l2 r1 r2 => ?_
  rcases b with ⟨session, field⟩
  cases session <;> cases field <;> exact ⟨rfl, rfl, rfl, rfl⟩

/-- A choice that reads the block and the configuration only. -/
theorem SameBlock.ite {c : State → Bool} {f g : State → State} (h : SameBlock lvl s t)
    (hc : ∀ (b : Block) (q : Config.Params) (p1 p2 : List Event) (a1 a2 : CsrAnswer) (l1 l2 : Bool) (r1 r2 : RleUnit),
      c ⟨b, q, p1, a1, l1, r1⟩ = c ⟨b, q, p2, a2, l2, r2⟩)
    (hf : SameBlock lvl (f s) (f t)) (hg : SameBlock lvl (g s) (g t)) :
    SameBlock lvl (if c s then f s else g s) (if c t then f t else g t) := by
  have he : c s = c t := by
    obtain ⟨b, q, p1, a1, l1, r1⟩ := s
    obtain ⟨b2, q2, p2, a2, l2, r2⟩ := t
    obtain ⟨hb, hq, -⟩ := h
    subst hb hq
    exact hc b q p1 p2 a1 a2 l1 l2 r1 r2
  rw [he]
  split_ifs
  · exact hf
  · exact hg

theorem SameBlock.timeoutCheck (h : SameBlock lvl s t) : SameBlock lvl (timeoutCheck s) (timeoutCheck t) :=
  h.ite (c := timedOut) (f := Machine.endEvent) (g := id) (fun _ _ _ _ _ _ _ _ _ _ => rfl) h.endEvent h

theorem SameBlock.tickEvent (h : SameBlock lvl s t) : SameBlock lvl (tickEvent s) (tickEvent t) :=
  h.ite (c := State.isOpen) (f := fun s => Machine.timeoutCheck { s with idleCnt := satInc s.idleCnt }) (g := id)
    (fun _ _ _ _ _ _ _ _ _ _ => rfl)
    (SameBlock.timeoutCheck (h.of_eq (f := fun s => { s with idleCnt := satInc s.idleCnt })
      fun _ _ _ _ _ _ _ _ _ _ => ⟨rfl, rfl, rfl, rfl⟩)) h

theorem SameBlock.hardReset (h : SameBlock lvl s t) : SameBlock lvl (hardReset s) (hardReset t) :=
  h.of_eq fun _ _ _ _ _ _ _ _ _ _ => ⟨rfl, rfl, rfl, rfl⟩

theorem SameBlock.csrReadEvent (offset : Byte) (h : SameBlock lvl s t) :
    SameBlock lvl (csrReadEvent offset s) (csrReadEvent offset t) :=
  h.of_eq fun _ _ _ _ _ _ _ _ _ _ => by
    simp only [Machine.csrReadEvent]
    split_ifs <;> exact ⟨rfl, rfl, rfl, rfl⟩

theorem SameBlock.writeReg (r : Reg) (v : Word) (h : SameBlock lvl s t) : SameBlock lvl (writeReg r v s) (writeReg r v t) := by
  cases r with
  | ctrl =>
    simp only [Machine.writeReg, writeCtrl]
    have hc : SameBlock lvl { s with en := v.getLsbD 0, strict := v.getLsbD 1 } { t with en := v.getLsbD 0, strict := v.getLsbD 1 } :=
      h.of_eq (f := fun s => { s with en := v.getLsbD 0, strict := v.getLsbD 1 })
        fun _ _ _ _ _ _ _ _ _ _ => ⟨rfl, rfl, rfl, rfl⟩
    split_ifs
    · exact h.of_eq fun _ _ _ _ _ _ _ _ _ _ => ⟨rfl, rfl, rfl, rfl⟩
    · exact hc.endEvent
    · exact hc
  | idleLimit =>
    exact SameBlock.timeoutCheck (h.of_eq (f := fun s => { s with idleLimit := v })
      fun _ _ _ _ _ _ _ _ _ _ => ⟨rfl, rfl, rfl, rfl⟩)
  | _ => exact h.of_eq fun _ _ _ _ _ _ _ _ _ _ => ⟨rfl, rfl, rfl, rfl⟩

theorem SameBlock.csrWriteEvent (offset : Byte) (v : Word) (h : SameBlock lvl s t) :
    SameBlock lvl (csrWriteEvent offset v s) (csrWriteEvent offset v t) := by
  have hw : SameBlock lvl (writeOffset offset v s) (writeOffset offset v t) := by
    unfold writeOffset
    split
    · exact h.writeReg _ v
    · exact h
  unfold Machine.csrWriteEvent
  split_ifs
  · exact hw.of_eq (f := fun s => { s with csrAnswer := .written }) fun _ _ _ _ _ _ _ _ _ _ => ⟨rfl, rfl, rfl, rfl⟩
  · exact h.of_eq (f := fun s => { s with csrAnswer := .writeError }) fun _ _ _ _ _ _ _ _ _ _ => ⟨rfl, rfl, rfl, rfl⟩

theorem SameBlock.outPopEvent (h : SameBlock lvl s t) : SameBlock lvl (outPopEvent s) (outPopEvent t) :=
  h.of_eq fun b _ _ _ _ _ _ _ _ _ => by
    simp only [Machine.outPopEvent]
    split_ifs <;> exact ⟨rfl, rfl, rfl, rfl⟩

theorem SameBlock.finalizeEvent (h : SameBlock lvl s t) : SameBlock lvl (finalizeEvent s) (finalizeEvent t) := by
  refine h.of_eq fun b q p1 p2 a1 a2 l1 l2 r1 r2 => ?_
  have ho : finalOutcome ⟨b, q, p1, a1, l1, r1⟩ = finalOutcome ⟨b, q, p2, a2, l2, r2⟩ := rfl
  simp only [Machine.finalizeEvent, ho]
  split_ifs
  · exact ⟨rfl, rfl, rfl, rfl⟩
  · split <;> exact ⟨rfl, rfl, rfl, rfl⟩

/-- What a command does to the block does not depend on the other fields (41_commands.md R220). -/
theorem SameBlock.exec {i : Instr} (hi : i.codeSet = .packet) (h : SameBlock lvl s t) : SameOutcome lvl (exec i s) (exec i t) := by
  have hstore : ∀ (d : List Byte) {s t : State}, SameBlock lvl s t → SameBlock lvl (storeAppend d s) (storeAppend d t) :=
    fun d s t h => h.ite (c := storeFits d) (f := appendVram d) (g := raiseFatal .overflow (Config.cmdFill.setWidth 32))
      (fun _ _ _ _ _ _ _ _ _ _ => rfl)
      (h.of_eq fun _ _ _ _ _ _ _ _ _ _ => ⟨rfl, rfl, rfl, rfl⟩) (h.of_eq fun _ _ _ _ _ _ _ _ _ _ => ⟨rfl, rfl, rfl, rfl⟩)
  cases i with
  | init c p => exact ⟨_, _, rfl, rfl, h.of_eq (f := fun s => { s with vram := [], vramLen := 0#32 })
      fun _ _ _ _ _ _ _ _ _ _ => ⟨rfl, rfl, rfl, rfl⟩⟩
  | print c p =>
    obtain ⟨b, q, p1, a1, l1, r1⟩ := s
    obtain ⟨b2, q2, p2, a2, l2, r2⟩ := t
    obtain ⟨hb, hq, hl⟩ := h
    subst hb hq
    simp only [Machine.exec, execPrint]
    split_ifs <;> exact ⟨_, _, rfl, rfl, rfl, rfl, hl⟩
  | fillRaw p => exact ⟨_, _, rfl, rfl, hstore p h⟩
  | fillRle c p =>
    obtain ⟨u, hu⟩ := execFillRle_eq p
    exact ⟨_, _, (hu s).2, (hu t).2, hstore u.out (h.of_eq (f := fun s => { s with rleBad := s.rleBad || u.bad, rle := RleUnit.empty })
      fun _ _ _ _ _ _ _ _ _ _ => ⟨rfl, rfl, rfl, rfl⟩)⟩
  | status c p => exact ⟨_, _, rfl, rfl, h⟩
  | other d c p => exact ⟨_, _, rfl, rfl, h⟩
  | rleRun n v => cases hi
  | rleLit n b => cases hi

theorem decodeCommand_codeSet (cmd comp : Byte) (payload : List Byte) : (decodeCommand cmd comp payload).codeSet = .packet := by
  unfold decodeCommand
  split_ifs <;> rfl

theorem SameOutcome.onNext {o p : Outcome} {f g : State → Outcome} (h : SameOutcome lvl o p)
    (hf : ∀ s t, SameBlock lvl s t → SameOutcome lvl (f s) (g t)) : SameOutcome lvl (onNext o f) (onNext p g) := by
  obtain ⟨s, t, rfl, rfl, hst⟩ := h
  exact hf s t hst

/-- One plain update of each side. -/
theorem SameBlock.next {f : State → State} (h : SameBlock lvl s t)
    (hf : ∀ (b : Block) (q : Config.Params) (p1 p2 : List Event) (a1 a2 : CsrAnswer) (l1 l2 : Bool) (r1 r2 : RleUnit),
      (f ⟨b, q, p1, a1, l1, r1⟩).toBlock = (f ⟨b, q, p2, a2, l2, r2⟩).toBlock ∧
      (f ⟨b, q, p1, a1, l1, r1⟩).params = (f ⟨b, q, p2, a2, l2, r2⟩).params ∧
      (f ⟨b, q, p1, a1, l1, r1⟩).disconnectLevel = l1 ∧ (f ⟨b, q, p2, a2, l2, r2⟩).disconnectLevel = l2) :
    SameOutcome lvl (.next (f s)) (.next (f t)) := ⟨_, _, rfl, rfl, h.of_eq hf⟩

theorem SameBlock.commit (h : SameBlock lvl s t) : SameOutcome lvl (commit s) (commit t) := by
  have hi : latchedInstr t = latchedInstr s := by simp only [latchedInstr]; rw [h.1]
  unfold Machine.commit
  rw [hi]
  exact (h.exec (decodeCommand_codeSet _ _ _)).onNext fun s t hst =>
    hst.next (f := fun t => { t with pbuf := [] }) fun _ _ _ _ _ _ _ _ _ _ => ⟨rfl, rfl, rfl, rfl⟩

theorem SameBlock.fieldStatus (b : Byte) (h : SameBlock lvl s t) : SameOutcome lvl (fieldStatus b s) (fieldStatus b t) := by
  have h1 : SameBlock lvl { s with stat := b, field := .magic0 } { t with stat := b, field := .magic0 } :=
    h.of_eq (f := fun s => { s with stat := b, field := .magic0 }) fun _ _ _ _ _ _ _ _ _ _ => ⟨rfl, rfl, rfl, rfl⟩
  have hm : t.csumAcc = t.csumRx ↔ s.csumAcc = s.csumRx := by rw [h.1]
  have hs : (b.getLsbD 0 && t.strict) = true ↔ (b.getLsbD 0 && s.strict) = true := by rw [h.1]
  unfold Machine.fieldStatus
  dsimp only
  by_cases hc : s.csumAcc = s.csumRx
  · rw [if_pos hc, if_pos (hm.2 hc)]
    exact h1.commit
  · rw [if_neg hc, if_neg fun x => hc (hm.1 x)]
    by_cases hp : (b.getLsbD 0 && s.strict) = true
    · rw [if_pos hp, if_pos (hs.2 hp)]
      exact h1.next (f := fun s => raiseFatal .checksum (checksumInfo s) s) fun _ _ _ _ _ _ _ _ _ _ => ⟨rfl, rfl, rfl, rfl⟩
    · rw [if_neg hp, if_neg fun x => hp (hs.1 x)]
      exact h1.next (f := raiseSkip) fun _ _ _ _ _ _ _ _ _ _ => ⟨rfl, rfl, rfl, rfl⟩

theorem SameBlock.fieldRule (b : Byte) (h : SameBlock lvl s t) : SameOutcome lvl (fieldRule b s) (fieldRule b t) := by
  have hf : t.field = s.field := (congrArg Block.field h.1).symm
  unfold Machine.fieldRule
  rw [hf]
  generalize s.field = x
  cases x with
  | magic1 =>
    refine h.next (f := fieldMagic1 b) fun _ _ _ _ _ _ _ _ _ _ => ?_
    simp only [fieldMagic1]
    split_ifs <;> exact ⟨rfl, rfl, rfl, rfl⟩
  | status => exact h.fieldStatus b
  | magic0 => exact h.next (f := fieldMagic0 b) fun _ _ _ _ _ _ _ _ _ _ => ⟨rfl, rfl, rfl, rfl⟩
  | cmd => exact h.next (f := fieldCmd b) fun _ _ _ _ _ _ _ _ _ _ => ⟨rfl, rfl, rfl, rfl⟩
  | comp => exact h.next (f := fieldComp b) fun _ _ _ _ _ _ _ _ _ _ => ⟨rfl, rfl, rfl, rfl⟩
  | size0 => exact h.next (f := fieldSize0 b) fun _ _ _ _ _ _ _ _ _ _ => ⟨rfl, rfl, rfl, rfl⟩
  | size1 => exact h.next (f := fieldSize1 b) fun _ _ _ _ _ _ _ _ _ _ => ⟨rfl, rfl, rfl, rfl⟩
  | payload => exact h.next (f := fieldPayload b) fun _ _ _ _ _ _ _ _ _ _ => ⟨rfl, rfl, rfl, rfl⟩
  | csum0 => exact h.next (f := fieldCsum0 b) fun _ _ _ _ _ _ _ _ _ _ => ⟨rfl, rfl, rfl, rfl⟩
  | csum1 => exact h.next (f := fieldCsum1 b) fun _ _ _ _ _ _ _ _ _ _ => ⟨rfl, rfl, rfl, rfl⟩
  | ack => exact h.next (f := fieldAck b) fun _ _ _ _ _ _ _ _ _ _ => ⟨rfl, rfl, rfl, rfl⟩

theorem SameBlock.byteInEvent (b : Byte) (h : SameBlock lvl s t) : SameOutcome lvl (byteInEvent b s) (byteInEvent b t) := by
  obtain ⟨x, q, p1, a1, l1, r1⟩ := s
  obtain ⟨x2, q2, p2, a2, l2, r2⟩ := t
  obtain ⟨hb, hq, hl⟩ := h
  subst hb hq
  rcases x with ⟨session⟩
  cases session with
  | idle =>
    exact SameBlock.next (f := fun s => fieldMagic0 b (sessionStart s)) ⟨rfl, rfl, hl⟩
      fun _ _ _ _ _ _ _ _ _ _ => ⟨rfl, rfl, rfl, rfl⟩
  | receiving => exact SameBlock.fieldRule b ⟨rfl, rfl, hl⟩
  | aborted => exact ⟨_, _, rfl, rfl, rfl, rfl, hl⟩
  | finalizing => exact ⟨_, _, rfl, rfl, rfl, rfl, hl⟩
  | emitting => exact ⟨_, _, rfl, rfl, rfl, rfl, hl⟩

/-- A clocked cycle, with the level that the disconnect input had before (60_exceptions.md R421). -/
theorem SameBlock.cycleEvent (c : CycleIn) (h : SameBlock True s t) : SameOutcome True (cycleEvent c s) (cycleEvent c t) := by
  have hraise : ∀ (bits : BitVec 3) {s t : State}, SameBlock True s t → SameBlock True (raiseEvents bits s) (raiseEvents bits t) :=
    fun bits _ _ h => h.of_eq (f := raiseEvents bits) fun _ _ _ _ _ _ _ _ _ _ => ⟨rfl, rfl, rfl, rfl⟩
  have h2 : SameBlock True (cycleResets c s) (cycleResets c t) := by
    have h1 : SameBlock True (if c.rst then Machine.hardReset s else s) (if c.rst then Machine.hardReset t else t) :=
      h.ite (c := fun _ => c.rst) (f := Machine.hardReset) (g := id) (fun _ _ _ _ _ _ _ _ _ _ => rfl) h.hardReset h
    unfold cycleResets
    dsimp only
    generalize (if c.rst then Machine.hardReset s else s) = s1 at h1 ⊢
    generalize (if c.rst then Machine.hardReset t else t) = t1 at h1 ⊢
    split
    · exact h1
    · exact h1
    · split_ifs <;> [exact h1.csrWriteEvent _ _; exact h1]
  have ha : acceptedByte c (cycleResets c t) = acceptedByte c (cycleResets c s) := by
    unfold acceptedByte State.inReady; rw [h2.1]
  unfold Machine.cycleEvent
  dsimp only
  rw [ha, show (cycleResets c t).eventBits = (cycleResets c s).eventBits from (congrArg Block.eventBits h2.1).symm]
  generalize acceptedByte c (cycleResets c s) = accepted
  refine SameOutcome.onNext ?_ fun s3 t3 h3 => ?_
  · have h0 : SameBlock True { cycleResets c s with eventBits := 0#3 } { cycleResets c t with eventBits := 0#3 } :=
      h2.of_eq (f := fun s => { s with eventBits := 0#3 }) fun _ _ _ _ _ _ _ _ _ _ => ⟨rfl, rfl, rfl, rfl⟩
    cases accepted with
    | none => exact ⟨_, _, rfl, rfl, h0⟩
    | some b => exact h0.byteInEvent b
  have h6 : SameBlock True (cycleTimers c accepted.isSome s3) (cycleTimers c accepted.isSome t3) := by
    have h4 : SameBlock True (if (c.tick && !accepted.isSome) = true then Machine.tickEvent s3 else s3)
        (if (c.tick && !accepted.isSome) = true then Machine.tickEvent t3 else t3) :=
      h3.ite (c := fun _ => c.tick && !accepted.isSome) (f := Machine.tickEvent) (g := id)
        (fun _ _ _ _ _ _ _ _ _ _ => rfl) h3.tickEvent h3
    unfold cycleTimers
    dsimp only
    rw [h3.2.2 trivial]
    generalize (if (c.tick && !accepted.isSome) = true then Machine.tickEvent s3 else s3) = s4 at h4 ⊢
    generalize (if (c.tick && !accepted.isSome) = true then Machine.tickEvent t3 else t3) = t4 at h4 ⊢
    split_ifs <;> [exact h4.endEvent; exact h4]
  have hw : ∀ {s t : State}, SameBlock True s t → SameBlock True (cycleWrite c s) (cycleWrite c t) := fun h => by
    unfold cycleWrite
    split
    · exact h
    · exact h
    · split_ifs <;> [exact h; exact h.csrWriteEvent _ _]
  have h7 : SameBlock True (withRaised (cycleResets c s).eventBits (cycleWrite c) (cycleTimers c accepted.isSome s3))
      (withRaised (cycleResets c s).eventBits (cycleWrite c) (cycleTimers c accepted.isSome t3)) := by
    unfold withRaised
    rw [show (cycleTimers c accepted.isSome t3).eventBits = (cycleTimers c accepted.isSome s3).eventBits from
      (congrArg Block.eventBits h6.1).symm]
    exact hraise _ (hw (hraise _ h6))
  generalize withRaised (cycleResets c s).eventBits (cycleWrite c) (cycleTimers c accepted.isSome s3) = s7 at h7 ⊢
  generalize withRaised (cycleResets c s).eventBits (cycleWrite c) (cycleTimers c accepted.isSome t3) = t7 at h7 ⊢
  have h9 : SameBlock True (cycleOutput c s7) (cycleOutput c t7) := by
    unfold cycleOutput
    have h8 : SameBlock True (if (c.outReady && s7.outValid) = true then Machine.outPopEvent s7 else s7)
        (if (c.outReady && t7.outValid) = true then Machine.outPopEvent t7 else t7) :=
      h7.ite (c := fun s => c.outReady && s.outValid) (f := Machine.outPopEvent) (g := id)
        (fun _ _ _ _ _ _ _ _ _ _ => rfl) h7.outPopEvent h7
    dsimp only
    generalize (if (c.outReady && s7.outValid) = true then Machine.outPopEvent s7 else s7) = s8 at h8 ⊢
    generalize (if (c.outReady && t7.outValid) = true then Machine.outPopEvent t7 else t7) = t8 at h8 ⊢
    exact h8.ite (c := fun s => c.finalizeNow && s.session == .finalizing) (f := Machine.finalizeEvent) (g := id)
      (fun _ _ _ _ _ _ _ _ _ _ => rfl) h8.finalizeEvent h8
  have hr : SameBlock True (cycleRead c (cycleOutput c s7)) (cycleRead c (cycleOutput c t7)) := by
    unfold cycleRead
    split
    · exact h9
    · exact h9.csrReadEvent _
    · exact h9
  exact ⟨_, _, rfl, rfl, hr.1, hr.2.1, fun _ => rfl⟩

/-- What an event does to the block and to the configuration depends on those two and the event alone; in a clocked cycle also on
the level that the disconnect input had before (10_state.md R30). -/
theorem applyEvent_toBlock_congr (e : Event) (h : SameBlock (isCycle e = true) s t) :
    SameOutcome (isCycle e = true) (applyEvent e s) (applyEvent e t) := by
  cases e with
  | byteIn b => exact h.byteInEvent b
  | tick => exact ⟨_, _, rfl, rfl, h.tickEvent⟩
  | disconnect => exact ⟨_, _, rfl, rfl, h.endEvent⟩
  | csrRead o => exact ⟨_, _, rfl, rfl, h.csrReadEvent o⟩
  | csrWrite o v => exact ⟨_, _, rfl, rfl, h.csrWriteEvent o v⟩
  | outPop => exact ⟨_, _, rfl, rfl, h.outPopEvent⟩
  | reset => exact ⟨_, _, rfl, rfl, h.hardReset⟩
  | finalize => exact ⟨_, _, rfl, rfl, h.finalizeEvent⟩
  | cycle c =>
    obtain ⟨u, v, hu, hv, h'⟩ := SameBlock.cycleEvent c ⟨h.1, h.2.1, fun _ => h.2.2 rfl⟩
    exact ⟨u, v, hu, hv, h'.1, h'.2.1, fun _ => h'.2.2 trivial⟩

/-- Which events are enabled depends on the block alone. -/
theorem enabled_congr (e : Event) (h : s.toBlock = t.toBlock) : enabled e s = enabled e t := by
  cases e <;> simp only [enabled, State.inReady, State.outValid] <;> rw [h]

end Sys2Proof.Machine
end

