-- ==== Sys2Proof/Laws/PerInstr.lean ====
section
/-! SUPPORT. Statements made per instruction: the length of an instruction's encoding. -/

namespace Sys2Proof.Laws

/-- A packet is 10 bytes longer than its payload, whatever its fields are (30_encoding.md R131). -/
theorem packetBytes_length (cmd comp : Byte) (payload : List Byte) (ack status : Byte) :
    (packetBytes cmd comp payload ack status).length = 10 + payload.length := by
  simp only [packetBytes, List.length_append, List.length_cons, List.length_nil]
  omega

namespace EncodedLength

/-- The length of an instruction's encoding (30_encoding.md R131, R141, R142, R153): 10 bytes and the payload for a packet, one
control byte and its data bytes for an RLE code. -/
def Statement (i : Instr) : Prop :=
  (encode i).length =
    match i with
    | .init _ payload => 10 + payload.length
    | .print _ payload => 10 + payload.length
    | .fillRaw payload => 10 + payload.length
    | .fillRle _ payload => 10 + payload.length
    | .status _ payload => 10 + payload.length
    | .other _ _ payload => 10 + payload.length
    | .rleRun _ v => 1 + v.toList.length
    | .rleLit _ bytes => 1 + bytes.length

theorem init (comp : Byte) (payload : List Byte) : Statement (.init comp payload) := packetBytes_length _ _ _ _ _

theorem print (comp : Byte) (payload : List Byte) : Statement (.print comp payload) := packetBytes_length _ _ _ _ _

theorem fillRaw (payload : List Byte) : Statement (.fillRaw payload) := packetBytes_length _ _ _ _ _

theorem fillRle (comp : Byte) (payload : List Byte) : Statement (.fillRle comp payload) := packetBytes_length _ _ _ _ _

theorem status (comp : Byte) (payload : List Byte) : Statement (.status comp payload) := packetBytes_length _ _ _ _ _

theorem other (cmd comp : Byte) (payload : List Byte) : Statement (.other cmd comp payload) := packetBytes_length _ _ _ _ _

theorem rleRun (n : BitVec 7) (v : Option Byte) : Statement (.rleRun n v) := by
  simp only [Statement, encode, encodeWith, List.length_cons]
  omega

theorem rleLit (n : BitVec 7) (bytes : List Byte) : Statement (.rleLit n bytes) := by
  simp only [Statement, encode, encodeWith, List.length_cons]
  omega

end EncodedLength

end Sys2Proof.Laws
end

