-- ==== Sys2Proof/Laws/Step.lean ====
section
/-! SUPPORT. One step and many: which event the step takes, runs of steps, and the one induction over events that an invariant
needs (`step_keeps`). -/

namespace Sys2Proof.Machine

open Sys2Proof.Safety

@[simp] theorem run_zero (s : State) : run 0 s = .next s := rfl

/-- A run of `k + 1` steps is a step and a run of `k`. -/
theorem run_succ (k : Nat) (s : State) : run (k + 1) s = onNext (step s) (run k) := rfl

/-- A run in two parts. -/
theorem run_add (j k : Nat) (s : State) : run (j + k) s = onNext (run j s) (run k) := by
  induction j generalizing s with
  | zero => simp
  | succ j ih =>
    rw [Nat.succ_add, run_succ, run_succ]
    cases h : step s with
    | next t => simp [ih]
    | fault r => rfl
    | refused r => rfl

/-- The step takes an enabled first event. -/
theorem step_head {e : Event} {rest : List Event} {s : State} (hp : s.pending = e :: rest) (he : enabled e s = true) :
    step s = applyEvent e (beginEvent rest s) := by
  simp [step, nextEvent, hp, takeEnabled, he]

/-- With CTRL.EN = 1 an open or idle instance accepts bytes (40_framer.md R181). -/
theorem inReady_of_open {s : State} (hen : s.en = true)
    (h : s.session = .idle ∨ s.session = .receiving ∨ s.session = .aborted) : s.inReady = true := by
  rcases h with h | h | h <;> simp [State.inReady, hen, h]

/-- The step on a pending byte in IDLE: a session starts with it (40_framer.md R183). -/
theorem step_byte_idle {b : Byte} {rest : List Event} {s : State} (hen : s.en = true) (hs : s.session = .idle)
    (hp : s.pending = .byteIn b :: rest) :
    step s = .next (fieldMagic0 b (sessionStart { s with pending := rest, csrAnswer := .quiet })) := by
  rw [step_head hp (inReady_of_open hen (.inl hs))]
  simp only [applyEvent, byteInEvent, beginEvent, hs]

/-- The step on a pending byte in RECEIVING: the rule of the current FIELD (40_framer.md R183). -/
theorem step_byte_receiving {b : Byte} {rest : List Event} {s : State} (hen : s.en = true) (hs : s.session = .receiving)
    (hp : s.pending = .byteIn b :: rest) :
    step s = fieldRule b { s with idleCnt := 0#32, pending := rest, csrAnswer := .quiet } := by
  rw [step_head hp (inReady_of_open hen (.inr (.inl hs)))]
  simp only [applyEvent, byteInEvent, beginEvent, hs]

/-- What `takeEnabled` takes: the first enabled event, and the others in their order. -/
theorem takeEnabled_eq_some {s : State} {es : List Event} {e : Event} {rest : List Event}
    (h : takeEnabled s es = some (e, rest)) :
    enabled e s = true ∧ ∃ before after, es = before ++ e :: after ∧ rest = before ++ after ∧
      ∀ x ∈ before, enabled x s = false := by
  induction es generalizing rest with
  | nil => simp [takeEnabled] at h
  | cons x xs ih =>
    simp only [takeEnabled] at h
    split_ifs at h with hx
    · simp only [Option.some.injEq, Prod.mk.injEq] at h
      obtain ⟨rfl, rfl⟩ := h
      exact ⟨hx, [], xs, rfl, rfl, by simp⟩
    · split at h
      · simp at h
      · rename_i e' rest' h'
        simp only [Option.some.injEq, Prod.mk.injEq] at h
        obtain ⟨rfl, rfl⟩ := h
        obtain ⟨he, before, after, hes, hr, hb⟩ := ih h'
        refine ⟨he, x :: before, after, by simp [hes], by simp [hr], ?_⟩
        intro y hy
        rcases List.mem_cons.1 hy with rfl | hy
        · simpa using hx
        · exact hb y hy

/-- Everything a step can be (00_scope.md R6, R7): an enabled pending event, the Finalize step with none, or nothing. -/
theorem step_cases {s t : State} (h : step s = .next t) :
    (∃ e rest, takeEnabled s s.pending = some (e, rest) ∧ enabled e s = true ∧ applyEvent e (beginEvent rest s) = .next t) ∨
    (takeEnabled s s.pending = none ∧ s.session = .finalizing ∧ t = finalizeEvent (beginEvent s.pending s)) ∨
    (takeEnabled s s.pending = none ∧ s.session ≠ .finalizing ∧ t = s) := by
  simp only [step, nextEvent] at h
  split at h
  · rename_i e rest he
    exact .inl ⟨e, rest, he, (takeEnabled_eq_some he).1, h⟩
  · rename_i he
    split_ifs at h with hf
    · exact .inr (.inl ⟨he, hf, (Host.Outcome.next.inj h).symm⟩)
    · exact .inr (.inr ⟨he, hf, (Host.Outcome.next.inj h).symm⟩)

/-- The one induction that an invariant of every step needs: it does not read the pending events, the port's answer, EVENTS or
the disconnect level, and each kind of event keeps it. A clocked cycle is made of these. -/
theorem step_keeps {P : State → Prop}
    (hframe : ∀ s rest answer bits level, P s →
      P { s with pending := rest, csrAnswer := answer, eventBits := bits, disconnectLevel := level })
    (hbyte : ∀ b s t, P s → byteInEvent b s = .next t → P t)
    (htick : ∀ s, P s → P (tickEvent s))
    (hend : ∀ s, P s → P (endEvent s))
    (hread : ∀ offset s, P s → P (csrReadEvent offset s))
    (hwrite : ∀ offset v s, P s → P (csrWriteEvent offset v s))
    (hpop : ∀ s, P s → s.session = .emitting → P (outPopEvent s))
    (hreset : ∀ s, P s → P (hardReset s))
    (hfin : ∀ s, P s → s.session = .finalizing → P (finalizeEvent s))
    {s t : State} (hs : P s) (h : step s = .next t) : P t := by
  have hbegin : ∀ rest s, P s → P (beginEvent rest s) := fun rest s hs => hframe s rest .quiet s.eventBits s.disconnectLevel hs
  have hraise : ∀ bits s, P s → P (raiseEvents bits s) := fun bits s hs =>
    hframe s s.pending s.csrAnswer (s.eventBits ||| bits) s.disconnectLevel hs
  have hcycle : ∀ c s t, P s → cycleEvent c s = .next t → P t := by
    intro c s t hs h
    simp only [cycleEvent] at h
    obtain ⟨s3, h3, h⟩ := onNext_eq_next h
    have h2 : P (cycleResets c s) := by
      have h1 : P (if c.rst then hardReset s else s) := by split_ifs <;> [exact hreset s hs; exact hs]
      simp only [cycleResets]
      generalize (if c.rst then hardReset s else s) = s1 at h1 ⊢
      split
      · exact h1
      · exact h1
      · split_ifs <;> [exact hwrite _ _ _ h1; exact h1]
    have hs3 : P s3 := by
      have h0 : P { cycleResets c s with eventBits := 0#3 } := hframe _ (cycleResets c s).pending _ 0#3 _ h2
      unfold cycleByte at h3
      split at h3
      · exact Host.Outcome.next.inj h3 ▸ h0
      · exact hbyte _ _ _ h0 h3
    have hs6 : P (cycleTimers c (acceptedByte c (cycleResets c s)).isSome s3) := by
      simp only [cycleTimers]
      have h4 : P (if (c.tick && !(acceptedByte c (cycleResets c s)).isSome) = true then tickEvent s3 else s3) := by
        split_ifs <;> [exact htick _ hs3; exact hs3]
      generalize (if (c.tick && !(acceptedByte c (cycleResets c s)).isSome) = true then tickEvent s3 else s3) = s4 at h4 ⊢
      split_ifs <;> [exact hend _ h4; exact h4]
    have hw : ∀ s, P s → P (cycleWrite c s) := by
      intro s hs
      unfold cycleWrite
      split
      · exact hs
      · exact hs
      · split_ifs <;> [exact hs; exact hwrite _ _ _ hs]
    have hs7 := hraise (cycleTimers c (acceptedByte c (cycleResets c s)).isSome s3).eventBits _
      (hw _ (hraise (cycleResets c s).eventBits _ hs6))
    have ho : ∀ s, P s → P (cycleOutput c s) := by
      intro s hs
      simp only [cycleOutput]
      have h8 : P (if (c.outReady && s.outValid) = true then outPopEvent s else s) := by
        split_ifs with hc
        · exact hpop _ hs (by simp [State.outValid] at hc; exact hc.2)
        · exact hs
      generalize (if (c.outReady && s.outValid) = true then outPopEvent s else s) = s8 at h8 ⊢
      split_ifs with hc
      · exact hfin _ h8 (by simp at hc; exact hc.2)
      · exact h8
    have hr : ∀ s, P s → P (cycleRead c s) := by
      intro s hs
      unfold cycleRead
      split
      · exact hs
      · exact hread _ _ hs
      · exact hs
    have hlast := hr _ (ho _ hs7)
    rw [← Host.Outcome.next.inj h]
    exact hframe _ _ _ _ c.disconnect hlast
  rcases step_cases h with ⟨e, rest, _, he, ha⟩ | ⟨_, hf, rfl⟩ | ⟨_, _, rfl⟩
  · have hb := hbegin rest s hs
    cases e with
    | byteIn b => exact hbyte _ _ _ hb ha
    | tick => exact Host.Outcome.next.inj ha ▸ htick _ hb
    | disconnect => exact Host.Outcome.next.inj ha ▸ hend _ hb
    | csrRead o => exact Host.Outcome.next.inj ha ▸ hread _ _ hb
    | csrWrite o v => exact Host.Outcome.next.inj ha ▸ hwrite _ _ _ hb
    | outPop => exact Host.Outcome.next.inj ha ▸ hpop _ hb (by simpa [enabled, State.outValid] using he)
    | reset => exact Host.Outcome.next.inj ha ▸ hreset _ hb
    | finalize => exact Host.Outcome.next.inj ha ▸ hfin _ hb (by simpa [enabled] using he)
    | cycle c => exact hcycle _ _ _ hb ha
  · exact hfin _ (hbegin _ _ hs) hf
  · exact hs

end Sys2Proof.Machine
end

