-- ==== Sys2Proof/Laws/Zlib.lean ====
section
/-! SUPPORT. What the zlib streams of the model decompress to: the STORED compressor's to its input (44_png.md R293), and every
other compressor's to its input, which is the contract of R300. -/

namespace Sys2Proof.Machine

theorem lo8_toNat (h : Half) : (lo8 h).toNat = h.toNat % 256 := by simp [lo8, BitVec.extractLsb'_toNat]

theorem hi8_toNat (h : Half) : (hi8 h).toNat = h.toNat / 256 := by
  have := h.isLt
  simp [hi8, BitVec.extractLsb'_toNat, Nat.shiftRight_eq_div_pow]; omega

/-- NLEN is LEN's complement: their sum is 65535 (30_encoding.md R151). -/
theorem xor_ones_toNat (h : Half) : (h ^^^ 0xFFFF#16).toNat = 65535 - h.toNat := by
  rw [show (0xFFFF#16 : Half) = BitVec.allOnes 16 from rfl, BitVec.xor_allOnes, BitVec.toNat_not]

/-- One stored block is read back (30_encoding.md R151). -/
theorem inflateBlocks_storedBlock (window fuel : Nat) (final : Bool) (data tail out : List Byte) (h : data.length < 65536) :
    inflateBlocks window (fuel + 1) { current := [], rest := storedBlock final data ++ tail } out =
      if final then some (out ++ data, { current := [], rest := tail })
      else inflateBlocks window fuel { current := [], rest := tail } (out ++ data) := by
  have hl : (BitVec.ofNat 16 data.length).toNat = data.length := by rw [BitVec.toNat_ofNat]; omega
  have hbits : ∀ bits : List Bool,
      inflateStored
        ⟨bits, lo8 (BitVec.ofNat 16 data.length) :: hi8 (BitVec.ofNat 16 data.length) ::
          lo8 (BitVec.ofNat 16 data.length ^^^ 0xFFFF#16) :: hi8 (BitVec.ofNat 16 data.length ^^^ 0xFFFF#16) :: (data ++ tail)⟩
        out = some (out ++ data, { current := [], rest := tail }) := by
    intro bits
    have e1 : data.length % 256 + 256 * (data.length / 256) = data.length := by omega
    have e2 : data.length + ((65535 - data.length) % 256 + 256 * ((65535 - data.length) / 256)) = 65535 := by omega
    simp only [inflateStored, lo8_toNat, hi8_toNat, xor_ones_toNat, hl, e1, e2, List.length_append, List.take_left,
      List.drop_left]
    simp
  cases final <;>
    simp [inflateBlocks, storedBlock, takeBit, takeBits, inflateBlock, List.range, List.range.loop, hbits]

/-- The stored blocks of some data are read back (44_png.md R295, R296). -/
theorem inflateBlocks_storedBlocks (window blockMax : Nat) (hb : 0 < blockMax) (hm : blockMax < 65536) (tail : List Byte) :
    ∀ (n fuel : Nat) (data out : List Byte), data ≠ [] → data.length ≤ n → n ≤ fuel →
      inflateBlocks window fuel { current := [], rest := storedBlocks blockMax n data ++ tail } out =
        some (out ++ data, { current := [], rest := tail })
  | 0, _, data, _, hne, hn, _ => absurd (List.length_eq_zero_iff.1 (Nat.le_zero.1 hn)) hne
  | n + 1, 0, _, _, _, _, hf => absurd hf (by omega)
  | n + 1, fuel + 1, data, out, hne, hn, hf => by
    have hlen : (data.take blockMax).length < 65536 := by rw [List.length_take]; omega
    have hempty : data.isEmpty = false := by simpa using hne
    rw [storedBlocks, hempty]
    simp only [Bool.false_eq_true, if_false, List.append_assoc]
    rw [inflateBlocks_storedBlock _ _ _ _ _ _ hlen]
    by_cases hd : data.drop blockMax = []
    · have ht : data.take blockMax = data := by simpa [hd] using List.take_append_drop blockMax data
      have hs : ∀ m, storedBlocks blockMax m [] = [] := fun m => by cases m <;> rfl
      simp [hd, ht, hs]
    · have hd' : (data.drop blockMax).isEmpty = false := by simpa using hd
      rw [hd', inflateBlocks_storedBlocks window blockMax hb hm tail n fuel _ _ hd (by rw [List.length_drop]; omega) (by omega)]
      simp

/-- A stored block is at least as long as its data. -/
theorem length_storedBlocks_ge (blockMax : Nat) (hb : 0 < blockMax) :
    ∀ (n : Nat) (data : List Byte), data.length ≤ n → data.length ≤ (storedBlocks blockMax n data).length
  | 0, _, h => Nat.le_trans h (Nat.zero_le _)
  | n + 1, data, h => by
    rw [storedBlocks]
    split_ifs with he
    · simp_all
    · have := length_storedBlocks_ge blockMax hb n (data.drop blockMax) (by rw [List.length_drop]; omega)
      simp only [storedBlock, List.length_append, List.length_take, List.length_drop, List.length_cons, List.length_nil] at this ⊢
      omega

/-- What a zlib stream with the header of 44_png.md R293 decompresses to, by its deflate data. -/
theorem zlibDecompress_of_inflateBlocks {body trailer data : List Byte} (ht : trailer = be32 (adler32 data))
    (h : ∀ fuel, body.length ≤ fuel →
      inflateBlocks 32768 fuel { current := [], rest := body ++ trailer } [] = some (data, { current := [], rest := trailer })) :
    zlibDecompress ([0x78#8, 0x01#8] ++ body ++ trailer) = some data := by
  have hi : inflate 32768 (body ++ trailer) = some (data, trailer) := by
    simp only [inflate]
    rw [h _ (by simp only [BitStream.fuel, List.length_nil, List.length_append]; omega)]; rfl
  show zlibDecompress (0x78#8 :: 0x01#8 :: (body ++ trailer)) = some data
  simp [zlibDecompress, hi, ← ht]

/-- The STORED compressor's stream decompresses to its input (44_png.md R293 to R298). -/
theorem zlibDecompress_zlibStored {blockMax : Nat} (hb : 0 < blockMax) (hm : blockMax < 65536) {r : List Byte} (hr : r ≠ []) :
    zlibDecompress (zlibStored blockMax r) = some r := by
  refine zlibDecompress_of_inflateBlocks rfl fun fuel hf => ?_
  have := length_storedBlocks_ge blockMax hb r.length r le_rfl
  rw [inflateBlocks_storedBlocks 32768 blockMax hb hm _ r.length fuel r [] hr le_rfl (by omega), List.nil_append]

theorem zlibDecompress_plainStream (r : List Byte) : zlibDecompress (plainStream r) = some r := by
  unfold plainStream
  split_ifs with h
  · rw [List.isEmpty_iff] at h
    subst h
    refine zlibDecompress_of_inflateBlocks rfl fun fuel hf => ?_
    obtain ⟨n, rfl⟩ : ∃ n, fuel = n + 1 := ⟨fuel - 1, by simp [storedBlock] at hf; omega⟩
    simpa using inflateBlocks_storedBlock 32768 n true [] (be32 (adler32 [])) [] (by simp)
  · exact zlibDecompress_zlibStored (by omega) (by omega) (by simpa using h)

/-- The contract of 44_png.md R300: every other compressor's answer is one complete zlib stream of exactly its input. -/
theorem zlibDecompress_otherStream (which : Nat) (r : List Byte) : zlibDecompress (otherStream which r) = some r := by
  unfold otherStream
  split_ifs with h
  · exact h
  · exact zlibDecompress_plainStream r

/-- Every compressor that meets the contract is allowed: a proposal that meets it is the answer. -/
theorem otherStream_of_contract {which : Nat} {r : List Byte}
    (h : zlibDecompress (Config.deflateOther which r) = some r) : otherStream which r = Config.deflateOther which r :=
  if_pos h

end Sys2Proof.Machine
end

