-- ==== Sys2Proof/Tests/Slice0.lean ====
section
/-! SUPPORT. Small tests whose expected results come from the spec (95_test_vectors.md and the rules' own examples), and for
every statement with hypotheses a concrete state and operands that meet them (`witness_…`). -/

namespace Sys2Proof.Tests

open Sys2Proof.Machine Sys2Proof.Safety

/-! ### WellFormed refuses an ill-formed term, one for each check -/

theorem payloadFits_replicate (n : Nat) : payloadFits (List.replicate n 0#8) = decide (n < 65536) := by
  rw [payloadFits, List.length_replicate]

theorem test_wellFormed_initTooLong : (Instr.init 0#8 (List.replicate 65536 0#8)).wellFormed = false :=
  payloadFits_replicate _

theorem test_wellFormed_printTooLong : (Instr.print 0#8 (List.replicate 65536 0#8)).wellFormed = false :=
  payloadFits_replicate _

theorem test_wellFormed_fillRawTooLong : (Instr.fillRaw (List.replicate 65536 0#8)).wellFormed = false :=
  payloadFits_replicate _

theorem test_wellFormed_fillRleTooLong : (Instr.fillRle 1#8 (List.replicate 65536 0#8)).wellFormed = false := by
  rw [Instr.wellFormed, payloadFits_replicate]; rfl

theorem test_wellFormed_fillRleWithoutComp : (Instr.fillRle 0#8 []).wellFormed = false := by decide

theorem test_wellFormed_statusTooLong : (Instr.status 0#8 (List.replicate 65536 0#8)).wellFormed = false :=
  payloadFits_replicate _

theorem test_wellFormed_otherTooLong : (Instr.other 8#8 0#8 (List.replicate 65536 0#8)).wellFormed = false := by
  rw [Instr.wellFormed, payloadFits_replicate]; rfl

theorem test_wellFormed_otherWithNamedCmd :
    (Instr.other 1#8 0#8 []).wellFormed = false ∧ (Instr.other 2#8 0#8 []).wellFormed = false ∧
      (Instr.other 4#8 0#8 []).wellFormed = false ∧ (Instr.other 15#8 0#8 []).wellFormed = false := by decide

theorem test_wellFormed_literalTooLong : (Instr.rleLit 0#7 [1#8, 2#8]).wellFormed = false := by decide

theorem test_wellFormed_longestPayload : (Instr.fillRaw (List.replicate 65535 0#8)).wellFormed = true :=
  payloadFits_replicate _

/-! ### Decoding, on words written out from 30_encoding.md R130 to R142 -/

/-- 88 33 | CMD 01 | COMP FF (ignored) | SIZE 0 | checksum 0x0100 | ACK | STATUS. -/
theorem test_decode_init :
    decodePacket [0x88#8, 0x33#8, 0x01#8, 0xFF#8, 0x00#8, 0x00#8, 0x00#8, 0x01#8, 0x81#8, 0x04#8] = .ok (.init 0xFF#8 []) [] := by
  decide

/-- 95_test_vectors.md L2.2, PRINT 01, 13. -/
theorem test_decode_print :
    decodePacket [0x88#8, 0x33#8, 0x02#8, 0x00#8, 0x02#8, 0x00#8, 0x01#8, 0x13#8, 0x18#8, 0x00#8, 0x00#8, 0x00#8] =
      .ok (.print 0#8 [0x01#8, 0x13#8]) [] := by decide

/-- 95_test_vectors.md L2.2, FILL.RAW with SIZE = 0, with a byte of the next packet behind it. -/
theorem test_decode_fillRaw :
    decodePacket [0x88#8, 0x33#8, 0x04#8, 0x00#8, 0x00#8, 0x00#8, 0x04#8, 0x00#8, 0x00#8, 0x00#8, 0x88#8] =
      .ok (.fillRaw []) [0x88#8] := by decide

/-- 30_encoding.md R134: every nonzero COMP is RLE. Sum 4 + 0xFF + 2 + 0x81 + 0xAA = 0x0230. -/
theorem test_decode_fillRle :
    decodePacket [0x88#8, 0x33#8, 0x04#8, 0xFF#8, 0x02#8, 0x00#8, 0x81#8, 0xAA#8, 0x30#8, 0x02#8, 0x00#8, 0x00#8] =
      .ok (.fillRle 0xFF#8 [0x81#8, 0xAA#8]) [] := by decide

/-- 41_commands.md R229's example, with a payload byte and a nonzero ACK and STATUS. -/
theorem test_decode_status :
    decodePacket [0x88#8, 0x33#8, 0x0F#8, 0x00#8, 0x01#8, 0x00#8, 0x07#8, 0x17#8, 0x00#8, 0x55#8, 0xFF#8] =
      .ok (.status 0#8 [0x07#8]) [] := by decide

/-- CMD 0x03 is unnamed (41_commands.md R230). -/
theorem test_decode_other :
    decodePacket [0x88#8, 0x33#8, 0x03#8, 0x02#8, 0x00#8, 0x00#8, 0x05#8, 0x00#8, 0x00#8, 0x00#8] = .ok (.other 3#8 2#8 []) [] := by
  decide

/-- 0xFF is 1 | 1111111: the longest run; its value byte is data even with bit 7 set (42_rle.md R241). -/
theorem test_decode_rleRun : decodeRle [0xFF#8, 0x80#8, 0x00#8] = .ok (.rleRun 127#7 (some 0x80#8)) [0x00#8] := by decide

/-- 0x02 is 0 | 0000010: three literal bytes (42_rle.md R242). -/
theorem test_decode_rleLit :
    decodeRle [0x02#8, 0x10#8, 0x20#8, 0x30#8, 0x85#8] = .ok (.rleLit 2#7 [0x10#8, 0x20#8, 0x30#8]) [0x85#8] := by decide

/-- Rejected by name: a bad second magic byte, a wrong checksum, a missing STATUS byte. -/
theorem test_decode_rejects :
    decodePacket [0x88#8, 0x34#8, 0x01#8] = .reject (.badMagic 0x3488#16) ∧
    decodePacket [0x88#8, 0x33#8, 0x01#8, 0x00#8, 0x00#8, 0x00#8, 0x02#8, 0x00#8, 0x00#8, 0x00#8] = .reject (.badChecksum 1#16 2#16) ∧
    decodePacket [0x88#8, 0x33#8, 0x01#8, 0x00#8, 0x00#8, 0x00#8, 0x01#8, 0x00#8, 0x00#8] = .reject .truncated ∧
    decodeRle [] = .reject .truncated := by decide

/-- The encoder's bytes of 95_test_vectors.md P2 and L1.5. -/
theorem test_encode_words :
    encode (.print 0#8 [0x01#8, 0x13#8, 0x1B#8, 0x40#8]) =
      [0x88#8, 0x33#8, 0x02#8, 0x00#8, 0x04#8, 0x00#8, 0x01#8, 0x13#8, 0x1B#8, 0x40#8, 0x75#8, 0x00#8, 0x00#8, 0x00#8] ∧
    [Instr.rleRun 2#7 (some 0x41#8), .rleLit 1#7 [0x42#8, 0x43#8]].flatMap encode = [0x82#8, 0x41#8, 0x01#8, 0x42#8, 0x43#8] := by
  decide

theorem test_decodeTableWord :
    decodeTableWord 8 0x01 = some (.init 0#8 []) ∧ decodeTableWord 16 0x0004 = some (.fillRaw []) ∧
    decodeTableWord 16 0x0104 = some (.fillRle 1#8 []) ∧ decodeTableWord 0 0 = some (.other 0#8 0#8 []) ∧
    decodeTableWord 8 0x80 = some (.rleRun 0#7 (some 0#8)) ∧ decodeTableWord 8 0x00 = some (.rleLit 0#7 [0#8]) := by decide

/-! ### States for the tests and the witnesses -/

/-- An open session at a packet boundary. -/
def openState : State := { State.reset with en := true, session := .receiving }

/-- An open session with some tile data, one recorded part and counters that agree. -/
def filled : State :=
  { openState with
    vram := [1#8, 2#8], vramLen := 2#32, storeUsed := 2#32
    parts := [{ pal := 0xE4#8, tiles := List.replicate 40 0#8 }], partCnt := 1#32, rowsAcc := 1#32, palLatch := 0x1B#8 }

/-- `filled` with room for two more bytes of tile data and for no more part. -/
def tight : State :=
  { filled with params := { Config.Params.recommended with storeBytes := 4#32, maxParts := 1#32 } }

/-- An open session before the STATUS byte of a FILL.RAW packet, with the given transmitted checksum and next byte. -/
def atStatus (received : Half) (b : Byte) : State :=
  { filled with
    field := .status, magic := 0x3388#16, cmd := 4#8, size := 2#16, pidx := 2#16, pbuf := [7#8, 8#8], palLatch := 0#8
    csumAcc := 21#16, csumRx := received, pending := [.byteIn b] }

/-- A finished session with one part. -/
def finalizing : State := { filled with session := .finalizing, vram := [], pending := [.finalize] }

/-- A session whose image is being emitted; three bytes stand for the PNG. -/
def emitting : State :=
  { State.reset with session := .emitting, outbuf := [1#8, 2#8, 3#8], pngLen := 3#32, pending := [.outPop, .outPop, .outPop] }

/-- A state's fields after an outcome, where it is a next state. -/
def after {α : Type} (o : Outcome) (f : State → α) : Option α :=
  match o with
  | .next s => some (f s)
  | .fault _ => none
  | .refused _ => none

/-! ### Single steps -/

/-- 95_test_vectors.md L2.2: INIT empties VRAM; PART_CNT and STORE_USED stay. -/
theorem test_init : after (exec (.init 0#8 []) filled) (fun t => (t.vram, t.vramLen, t.partCnt, t.storeUsed)) =
    some ([], 0#32, 1#32, 2#32) := by decide

/-- 95_test_vectors.md L2.2: PRINT with VRAM = rep(40, 00) and palette E4. -/
theorem test_print :
    after (exec (.print 0#8 [1#8, 0x13#8, 0xE4#8, 0x40#8]) { openState with vram := List.replicate 40 0#8, palLatch := 0xE4#8 })
      (fun t => (t.parts, t.partCnt, t.rowsAcc)) =
      some ([{ pal := 0xE4#8, tiles := List.replicate 40 0#8 }], 1#32, 1#32) := by decide

/-- 95_test_vectors.md L2.2: MAX_PARTS = 1, PART_CNT = 1. -/
theorem test_print_overflow : after (exec (.print 0#8 []) tight) (fun t => (t.session, t.faultInfo, t.parts, t.eventBits)) =
    some (.aborted, 2#32, [], 4#3) := by decide

/-- 41_commands.md R226: equal to the bound is allowed. -/
theorem test_fillRaw : after (exec (.fillRaw [7#8, 8#8]) tight) (fun t => (t.vram, t.vramLen, t.storeUsed)) =
    some ([1#8, 2#8, 7#8, 8#8], 4#32, 4#32) := by decide

theorem test_fillRaw_overflow : after (exec (.fillRaw [7#8, 8#8, 9#8]) tight) (fun t => (t.fatalKind, t.faultInfo, t.vram, t.storeUsed)) =
    some (.overflow, 4#32, [], 0#32) := by decide

/-- 95_test_vectors.md L2.2: FILL.RLE 81, FF, 85. -/
theorem test_fillRle : after (exec (.fillRle 1#8 [0x81#8, 0xFF#8, 0x85#8]) openState) (fun t => (t.vram, t.rleBad, t.storeUsed)) =
    some ([0xFF#8, 0xFF#8, 0xFF#8], true, 3#32) := by decide

/-- 41_commands.md R225: where the capacity check fails, RLE_BAD stays set. -/
theorem test_fillRle_overflow : after (exec (.fillRle 1#8 [0x81#8, 0xFF#8, 0x85#8]) tight) (fun t => (t.session, t.rleBad, t.vram)) =
    some (.aborted, true, []) := by decide

theorem test_status_other : exec (.status 0#8 [1#8]) filled = .next filled ∧ exec (.other 0x08#8 0#8 [1#8, 2#8, 3#8]) filled = .next filled :=
  ⟨rfl, rfl⟩

/-- 42_rle.md R241: p = 0x80, 0x55. -/
theorem test_rleRun : after (exec (.rleRun 0#7 (some 0x55#8)) openState) (fun t => (t.rle.out, t.rle.bad)) = some ([0x55#8, 0x55#8], false) := by
  decide

/-- 42_rle.md R244: p = 0x03, 0x11, 0x22. -/
theorem test_rleLit_overrun : after (exec (.rleLit 3#7 [0x11#8, 0x22#8]) openState) (fun t => (t.rle.out, t.rle.bad)) =
    some ([0x11#8, 0x22#8], true) := by decide

/-- 95_test_vectors.md L2.3: 80 80 01 80 81 and 01 41 42 85, through FILL.RLE. -/
theorem test_decompressor :
    after (exec (.fillRle 1#8 [0x80#8, 0x80#8, 0x01#8, 0x80#8, 0x81#8]) openState) (fun t => (t.vram, t.rleBad)) =
      some ([0x80#8, 0x80#8, 0x80#8, 0x81#8], false) ∧
    after (exec (.fillRle 1#8 [0x01#8, 0x41#8, 0x42#8, 0x85#8]) openState) (fun t => (t.vram, t.rleBad)) =
      some ([0x41#8, 0x42#8], true) := by decide

/-- 95_test_vectors.md L1.2: the fatal mismatch's FAULT_INFO. -/
theorem test_fatal_checksum :
    after (step { atStatus 0x000D#16 0x01#8 with csumAcc := 0x000F#16 }) (fun t => (t.session, t.faultInfo)) =
      some (.aborted, 0x000F000D#32) := by decide

/-- 95_test_vectors.md L2.1: STATUS reads 0x39 after an INIT packet's third byte. -/
theorem test_status_register : readOffset 0x04#8 { openState with field := .comp } = 0x39#32 := by decide

/-- 95_test_vectors.md L2.7, steps 2 and 3. -/
theorem test_register_errors :
    after (step { State.reset with pending := [.csrRead 0x02#8] }) (fun t => (t.csrAck, t.csrErr, t.csrRdata)) = some (false, true, some 0#32) ∧
    after (step { State.reset with pending := [.csrRead 0x40#8] }) (fun t => (t.csrAck, t.csrErr, t.csrRdata)) = some (true, false, some 0#32) := by
  decide

/-- 95_test_vectors.md L2.6, "B, T, B+T": the Tick in a byte's cycle is not counted. -/
theorem test_byte_displaces_tick :
    after (cycleEvent { rst := false, inData := some 0x88#8, disconnect := false, tick := true, outReady := false, csr := none,
                        finalizeNow := false } { openState with idleCnt := 1#32, idleLimit := 3#32 }) (fun t => (t.idleCnt, t.field)) =
      some (0#32, .magic1) := by decide

/-- 95_test_vectors.md L2.7, step 13: DONE set in the cycle of its clear ends set. -/
theorem test_done_wins_over_clear :
    after (cycleEvent { rst := false, inData := none, disconnect := false, tick := false, outReady := false,
                        csr := some (.write 0x0C#8 1#32), finalizeNow := true } { finalizing with partCnt := 0#32, eventBits := 1#3 })
      (fun t => (t.session, t.eventBits)) = some (.idle, 1#3) := by decide

/-- 95_test_vectors.md L2.5 and 60_exceptions.md R400, row E6: the smallest image that is too large. -/
theorem test_image_size_overflow :
    after (step { finalizing with rowsAcc := 13337385#32 }) (fun t => (t.session, t.result, t.fatalKind, t.faultInfo, t.eventBits)) =
      some (.idle, 5#32, .overflow, 0#32, 5#3) := by decide +kernel

/-- 95_test_vectors.md L2.4: the palette table and two tile lines. -/
theorem test_palette_and_tile_lines :
    [0xE4#8, 0x1B#8, 0x00#8, 0xFF#8, 0x93#8, 0x27#8].map (fun p => [0#2, 1#2, 2#2, 3#2].map (paletteLookup p)) =
      [[3#2, 2#2, 1#2, 0#2], [0#2, 1#2, 2#2, 3#2], [3#2, 3#2, 3#2, 3#2], [0#2, 0#2, 0#2, 0#2], [0#2, 3#2, 2#2, 1#2],
        [0#2, 2#2, 1#2, 3#2]] ∧
    (List.range 8).map (rawIndex 0xF0#8 0x0F#8) = [1#2, 1#2, 1#2, 1#2, 2#2, 2#2, 2#2, 2#2] ∧
    (List.range 8).map (rawIndex 0x80#8 0x01#8) = [1#2, 0#2, 0#2, 0#2, 0#2, 0#2, 0#2, 2#2] := by decide

/-- 95_test_vectors.md L2.4: ROWS_ACC to H. -/
theorem test_heights : [0#32, 1#32, 7#32, 8#32, 9#32, 16#32].map imageHeight = [0, 8, 8, 8, 16, 16] := by decide

/-- 95_test_vectors.md L2.5: chunk CRCs, and the stored-block headers. -/
theorem test_png_pieces :
    (chunk typeIhdr (ihdrData 8)).drop 21 = [0x49#8, 0x5E#8, 0x04#8, 0x9C#8] ∧
    (chunk typePlte plteData).drop 20 = [0xC1#8, 0x7F#8, 0x62#8, 0xD1#8] ∧
    (storedBlocks 2 3 [9#8, 8#8, 7#8]) =
      [0x00#8, 0x02#8, 0x00#8, 0xFD#8, 0xFF#8, 9#8, 8#8, 0x01#8, 0x01#8, 0x00#8, 0xFE#8, 0xFF#8, 7#8] := by decide +kernel

/-- RFC 1950 and 1951: the zlib library's stream of ten bytes 0x61 in a fixed block (a literal and a match), and its deflate data
of "dcdbdcccacbbcddbabda" in a dynamic block. -/
theorem test_inflate :
    zlibDecompress [0x78#8, 0xDA#8, 0x4B#8, 0x4C#8, 0x84#8, 0x01#8, 0x00#8, 0x14#8, 0xE1#8, 0x03#8, 0xCB#8] =
      some (List.replicate 10 0x61#8) ∧
    inflate 32768 [0x05#8, 0xC1#8, 0x01#8, 0x01#8, 0x00#8, 0x00#8, 0x00#8, 0x82#8, 0xA0#8, 0xAD#8, 0xA9#8, 0xFF#8, 0x37#8,
        0x04#8, 0x19#8, 0xA9#8, 0x13#8, 0x2C#8, 0x46#8, 0x3B#8] =
      some ([0x64#8, 0x63#8, 0x64#8, 0x62#8, 0x64#8, 0x63#8, 0x63#8, 0x63#8, 0x61#8, 0x63#8, 0x62#8,
        0x62#8, 0x63#8, 0x64#8, 0x64#8, 0x62#8, 0x61#8, 0x62#8, 0x64#8, 0x61#8], []) := by
  decide +kernel

/-- A table word placed after reset is what the next step runs. -/
theorem test_withFetchWord :
    after (step (State.reset.withFetchWord 16 0x0002)) (fun t => (t.partCnt, t.parts, t.field, t.pbuf)) =
      some (1#32, [{ pal := 0#8, tiles := [] }], .magic0, []) ∧
    after (step (State.reset.withFetchWord 8 0x80)) (fun t => (t.vram, t.field)) = some ([0#8, 0#8], .magic0) := by decide

/-! ### Witnesses: concrete states and operands that meet the hypotheses of each statement -/

/-- A raster of one row of 160 cells. -/
def oneRow : List (List Stored) := [List.replicate 160 3#2]

/-- Parameters with one-byte-short blocks, so that one row takes two stored blocks. -/
def smallBlocks : Config.Params := { Config.Params.recommended with storedBlockMax := 160#16 }

/-- `DecodeOfEncodeGivesInstructionAndRest`: a whole code before more bytes, and a cut code at the end. -/
theorem witness_decodeOfEncode :
    ((Instr.other 8#8 1#8 [5#8]).wellFormed = true ∧ (Instr.other 8#8 1#8 [5#8]).complete = true) ∧
    ((Instr.rleLit 3#7 [1#8]).wellFormed = true ∧ (Instr.rleLit 3#7 [1#8]).complete = false ∧ ([] : List Byte) = []) := by decide

/-- `DecodedBytesAreAnEncoding`, in both code sets. -/
theorem witness_decodedBytes :
    (∃ i rest, decode .packet [0x88#8, 0x33#8, 0x01#8, 0x00#8, 0x00#8, 0x00#8, 0x01#8, 0x00#8, 0x02#8, 0x03#8, 0x04#8] = .ok i rest) ∧
    (∃ i rest, decode .rle [0x85#8] = .ok i rest) := ⟨⟨_, _, rfl⟩, ⟨_, _, rfl⟩⟩

/-- `OnlyMagicOpensAPacketAndEveryControlByteIsACode`: magics that differ in one byte; the last and first control bytes. -/
theorem witness_onlyMagic :
    ¬((0x33#8 : Byte) = 0x88#8 ∧ (0x33#8 : Byte) = 0x33#8) ∧ ¬((0x88#8 : Byte) = 0x88#8 ∧ (0x34#8 : Byte) = 0x33#8) ∧
    128 ≤ (0x80#8 : Byte).toNat ∧ (0x7F#8 : Byte).toNat < 128 := by decide

/-- `FillRawAppendsPayload`, at the bound. -/
theorem witness_fillRaw : tight.storeUsed.toNat + [7#8, 8#8].length = tight.params.storeBytes.toNat := by decide

/-- `FillRleAppendsDecompressedPayload`, at the bound: one run of two bytes. -/
theorem witness_fillRle : tight.storeUsed.toNat + (decompress [0x80#8, 7#8]).1.length = tight.params.storeBytes.toNat := by decide

/-- `PrintRecordsPart`, with a sum that fits. -/
theorem witness_print : filled.partCnt ≠ filled.params.maxParts ∧ filled.rowsAcc.toNat + filled.vram.length / 40 < 4294967296 := by
  decide

/-- `StatusAndOtherChangeNothing`: unnamed CMD values beside named ones. -/
theorem witness_other : ∀ cmd ∈ [(0x00#8 : Byte), 0x03#8, 0x08#8, 0xFF#8], cmd ∉ [0x01#8, 0x02#8, 0x04#8, 0x0F#8] := by decide

/-- `LiteralSpanIsCopied`: a whole span, a span cut by one byte, a span with no byte. -/
theorem witness_literal :
    [1#8, 2#8].length = (1#7 : BitVec 7).toNat + 1 ∧ [1#8].length < (1#7 : BitVec 7).toNat + 1 ∧
    ([] : List Byte).length < (0#7 : BitVec 7).toNat + 1 := by decide

/-- `FillBeyondStoreAborts`: one byte too many, for both FILLs. -/
theorem witness_fillBeyond :
    tight.params.storeBytes.toNat < tight.storeUsed.toNat + [7#8, 8#8, 9#8].length ∧
    tight.params.storeBytes.toNat < tight.storeUsed.toNat + (decompress [0x81#8, 7#8]).1.length := by decide

/-- `PrintBeyondPartLimitAborts`. -/
theorem witness_printBeyond : tight.partCnt = tight.params.maxParts := by decide

/-- `CommandsChangeOnlySessionMemories`, with an abort and without one. -/
theorem witness_frame : (∃ t, exec (.print 0#8 []) tight = .next t) ∧ (∃ t, exec (.fillRaw [7#8]) tight = .next t) :=
  ⟨⟨_, rfl⟩, ⟨_, rfl⟩⟩

/-- `VramBytesOutsideTheAppendAreKept`, clause by clause. -/
theorem witness_vramBytes :
    (∃ t, filled.storeUsed.toNat + [7#8].length ≤ filled.params.storeBytes.toNat ∧ exec (.fillRaw [7#8]) filled = .next t) ∧
    (∃ t, filled.storeUsed.toNat + (decompress [0x80#8, 7#8]).1.length ≤ filled.params.storeBytes.toNat ∧
      exec (.fillRle 1#8 [0x80#8, 7#8]) filled = .next t) ∧
    (∃ t, filled.partCnt ≠ filled.params.maxParts ∧ exec (.print 0#8 []) filled = .next t) ∧
    (∃ t, exec (.rleLit 3#7 [7#8]) filled = .next t) ∧ (∃ t, exec (.init 0#8 []) filled = .next t) :=
  ⟨⟨_, by decide, rfl⟩, ⟨_, by decide, rfl⟩, ⟨_, by decide, rfl⟩, ⟨_, rfl⟩, ⟨_, rfl⟩⟩

/-- `RleCodesDecompressToTheirBytes`: a run and a literal span. -/
theorem witness_roundTrip :
    (∀ i ∈ [Instr.rleRun 0#7 (some 5#8), .rleLit 0#7 [6#8]], i.codeSet = .rle ∧ i.wellFormed = true ∧ i.complete = true) ∧
    filled.storeUsed.toNat + ([Instr.rleRun 0#7 (some 5#8), .rleLit 0#7 [6#8]].flatMap codeOutput).length
      ≤ filled.params.storeBytes.toNat := by decide

/-- `DecompressedLengthIsBounded`: room for the bound to the last byte. -/
theorem witness_decompressedLength :
    let s := { filled with params := { Config.Params.recommended with storeBytes := 131#32 } }
    s.storeUsed.toNat + 129 * (([0xFF#8, 7#8].length + 1) / 2) = s.params.storeBytes.toNat ∧
      after (exec (.fillRle 1#8 [0xFF#8, 7#8]) s) (fun t => t.storeUsed) = some 131#32 := by decide +kernel

/-- `StepRunsTheLatchedInstruction`. -/
theorem witness_stepRuns :
    let s := atStatus 21#16 0xFE#8
    s.en = true ∧ s.session = .receiving ∧ s.field = .status ∧ s.csumAcc = s.csumRx ∧ s.pending = .byteIn 0xFE#8 :: [] ∧
      s.pbuf.length < 65536 := by decide

/-- `PacketBytesRunTheirCommand`, from an open session and from IDLE. -/
theorem witness_packetBytes :
    let i := Instr.print 3#8 [1#8, 2#8, 3#8, 4#8]
    let s := { filled with pending := (encodeWith 9#8 1#8 i).map Event.byteIn ++ [Event.tick] }
    packetOperands i = some (Config.cmdPrint, 3#8, [1#8, 2#8, 3#8, 4#8]) ∧ i.wellFormed = true ∧ s.en = true ∧
      s.pending = (encodeWith 9#8 1#8 i).map Event.byteIn ++ [Event.tick] ∧ s.session = .receiving ∧ s.field = .magic0 ∧
      { s with session := .idle }.session = .idle := by decide

/-- `MismatchWithoutAgreementSkipsThePacket`: the peer disagrees; or it agrees and STRICT = 0. -/
theorem witness_skip :
    let s := atStatus 20#16 0xFE#8
    let s0 := { atStatus 20#16 0x01#8 with strict := false }
    (s.en = true ∧ s.session = .receiving ∧ s.field = .status ∧ s.csumAcc ≠ s.csumRx ∧ (0xFE#8 : Byte).toNat % 2 = 0 ∧
      s.strict = true ∧ s.pending = .byteIn 0xFE#8 :: []) ∧
    (s0.en = true ∧ s0.session = .receiving ∧ s0.field = .status ∧ s0.csumAcc ≠ s0.csumRx ∧ s0.strict = false ∧
      s0.pending = .byteIn 0x01#8 :: []) := by decide

/-- `MismatchWithAgreementAborts`. -/
theorem witness_fatalMismatch :
    let s := atStatus 20#16 0x01#8
    s.en = true ∧ s.session = .receiving ∧ s.field = .status ∧ s.csumAcc ≠ s.csumRx ∧ (0x01#8 : Byte).toNat % 2 = 1 ∧
      s.strict = true ∧ s.pending = .byteIn 0x01#8 :: [] := by decide

/-- `BadMagicAborts`: the magic, and each of its bytes wrong. -/
theorem witness_badMagic :
    let s := fun b0 b1 : Byte => { filled with field := .magic1, magic := b0.setWidth 16, pending := [.byteIn b1] }
    ∀ b ∈ [((0x88#8 : Byte), (0x33#8 : Byte)), (0x88#8, 0x34#8), (0x33#8, 0x33#8)],
      (s b.1 b.2).en = true ∧ (s b.1 b.2).session = .receiving ∧ (s b.1 b.2).field = .magic1 ∧
        (s b.1 b.2).magic = b.1.setWidth 16 ∧ (s b.1 b.2).pending = .byteIn b.2 :: [] :=
  fun _ _ => ⟨rfl, rfl, rfl, rfl, rfl⟩

/-- `AckAndStatusBitsHaveNoEffect`: matching checksums with any two bytes, a mismatch with two even ones. -/
theorem witness_ackStatus :
    let s := atStatus 21#16 0#8
    let s0 := atStatus 20#16 0#8
    (s.en = true ∧ s.session = .receiving ∧ s.field = .status ∧ s.csumAcc = s.csumRx ∧
      (0x01#8 : Byte).toNat % 2 ≠ (0xFE#8 : Byte).toNat % 2) ∧
    (s0.en = true ∧ s0.session = .receiving ∧ s0.field = .status ∧ s0.csumAcc ≠ s0.csumRx ∧
      (0x00#8 : Byte).toNat % 2 = (0xFE#8 : Byte).toNat % 2) := by decide +kernel

/-- `BytesAfterAnAbortAreDiscarded`. -/
theorem witness_afterAbort :
    let s := { openState with session := .aborted, fatalKind := .desync, pending := [.byteIn 1#8, .byteIn 2#8, .disconnect] }
    s.en = true ∧ s.session = .aborted ∧ s.pending = ([1#8, 2#8] : List Byte).map Event.byteIn ++ [.disconnect] := by decide

/-- `BytesWaitWhileNotReady`: two held bytes before an OutPop. -/
theorem witness_bytesWait :
    let s := { emitting with en := true, pending := [.byteIn 1#8, .byteIn 2#8, .outPop] }
    s.inReady = false ∧ enabled .outPop s = true ∧ s.pending = ([1#8, 2#8] : List Byte).map Event.byteIn ++ .outPop :: [] := by decide

/-- `SessionStateChangesOnlyAsListed` and `EveryStepAnswersANextStateWithTheSameParameters`: a step with a transition. -/
theorem witness_transition : ∃ t, step finalizing = .next t ∧ nextEventOf finalizing = some .finalize ∧ finalizing.session ≠ t.session :=
  ⟨_, rfl, rfl, by decide +kernel⟩

/-- `TickCountsOnlyInAnOpenSession`: the limit disabled, one Tick further away, one Tick away (at a packet boundary, inside a
packet, after an abort), no open session. -/
theorem witness_tick :
    let s := fun limit count : Word => { openState with idleLimit := limit, idleCnt := count, pending := [.tick] }
    ((s 0#32 7#32).pending = .tick :: [] ∧ (s 0#32 7#32).session = .receiving ∧ (s 0#32 7#32).idleLimit = 0#32) ∧
    ((s 3#32 1#32).session = .receiving ∧ (s 3#32 1#32).idleCnt.toNat + 1 < (s 3#32 1#32).idleLimit.toNat) ∧
    ((s 3#32 2#32).idleLimit ≠ 0#32 ∧ (s 3#32 2#32).idleLimit.toNat ≤ (s 3#32 2#32).idleCnt.toNat + 1 ∧
      ((s 3#32 2#32).session = .receiving ∧ (s 3#32 2#32).field = .magic0) ∧
      { s 3#32 2#32 with field := .payload }.field ≠ .magic0 ∧ { s 3#32 2#32 with session := .aborted }.session = .aborted) ∧
    { s 3#32 1#32 with session := .idle }.session = .idle := by decide

/-- `TimeoutFiresAtTheLimitTick`: inside a packet, and after an abort. -/
theorem witness_timeout :
    let s := { openState with field := .size0, idleLimit := 3#32, pending := [.tick, .tick, .tick, .disconnect] }
    s.session = .receiving ∧ { s with session := .aborted }.session = .aborted ∧ s.idleCnt = 0#32 ∧ s.idleLimit ≠ 0#32 ∧
      s.pending = List.replicate s.idleLimit.toNat Event.tick ++ [.disconnect] := by decide

/-- `ZeroLimitNeverTimesOut`, with the counter about to saturate. -/
theorem witness_zeroLimit :
    let s := { openState with idleLimit := 0#32, idleCnt := 0xFFFFFFFE#32, pending := [.tick, .tick, .tick] }
    (s.session = .receiving ∨ s.session = .aborted) ∧ s.idleLimit = 0#32 ∧ s.pending = List.replicate (2 + 1) Event.tick ++ [] := by
  decide

/-- `DisconnectEndsAnOpenSession`: at a packet boundary, inside a packet, after an abort, with no open session. -/
theorem witness_disconnect :
    let s := { openState with pending := [.disconnect] }
    s.pending = .disconnect :: [] ∧ (s.session = .receiving ∧ s.field = .magic0) ∧
      { s with field := .payload }.field ≠ .magic0 ∧ { s with session := .aborted }.session = .aborted ∧
      { s with session := .emitting }.session = .emitting := by decide

/-- `FinalizeWithoutImage`: a fatal session, one with no part, one with no full row. -/
theorem witness_finalizeWithoutImage :
    finalizing.session = .finalizing ∧ finalizing.pending = .finalize :: [] ∧
      { finalizing with fatalKind := .overflow }.fatalKind = .overflow ∧
      (finalizing.fatalKind = .none ∧ { finalizing with partCnt := 0#32 }.partCnt = 0#32) ∧
      ({ finalizing with rowsAcc := 0#32 }.rowsAcc = 0#32 ∧ { finalizing with rowsAcc := 0#32 }.partCnt ≠ 0#32) := by decide

/-- A finished session with one part and another compressor than STORED. -/
def finalizingOther : State :=
  { finalizing with params := { Config.Params.recommended with deflate := .other 3 } }

/-- `FinalizeWithImageBeginsEmission`: one row, the largest height that fits with STORED (95_test_vectors.md L2.5); with another
compressor the length is free, and either this statement's bound or the next one's holds. -/
theorem witness_finalizeWithImage :
    finalizing.session = .finalizing ∧ finalizing.pending = .finalize :: [] ∧ finalizing.fatalKind = .none ∧
      finalizing.partCnt ≠ 0#32 ∧ finalizing.rowsAcc ≠ 0#32 ∧ finalizing.params.deflate = .stored ∧
      8 = (finalizing.rowsAcc.toNat + 7) / 8 * 8 ∧
      2 + 5 * ((161 * 8 + (finalizing.params.storedBlockMax.toNat - 1)) / finalizing.params.storedBlockMax.toNat) + 161 * 8 + 4
        ≤ 2147483647 ∧
      2 + 5 * ((161 * 13337384 + (65535 - 1)) / 65535) + 161 * 13337384 + 4 ≤ 2147483647 ∧
      finalizingOther.params.deflate ≠ .stored ∧
      (let n := (zlibStream finalizingOther.params (scanlines (compose finalizingOther.parts 8))).length
       n ≤ 2147483647 ∨ 2147483647 < n) :=
  ⟨rfl, rfl, rfl, by decide, by decide, rfl, rfl, by decide +kernel, by decide +kernel, by decide, le_or_gt _ _⟩

/-- `FinalizeOfTooLargeAnImageOverflows`: the smallest height that does not fit (95_test_vectors.md L2.5). -/
theorem witness_finalizeTooLarge :
    let s := { finalizing with rowsAcc := 13337385#32 }
    s.session = .finalizing ∧ s.pending = .finalize :: [] ∧ s.fatalKind = .none ∧ s.partCnt ≠ 0#32 ∧ s.rowsAcc ≠ 0#32 ∧
      s.params.deflate = .stored ∧ 13337392 = (s.rowsAcc.toNat + 7) / 8 * 8 ∧
      2147483647 < 2 + 5 * ((161 * 13337392 + (s.params.storedBlockMax.toNat - 1)) / s.params.storedBlockMax.toNat)
        + 161 * 13337392 + 4 := by decide +kernel

/-- `AbortedSessionReturnsToIdleAndStartsFresh`. -/
theorem witness_abortedReturns :
    let s := { openState with session := .aborted, fatalKind := .checksum, pending := [.disconnect, .finalize, .byteIn 0x88#8] }
    s.en = true ∧ s.session = .aborted ∧ s.fatalKind ≠ .none ∧ s.pending = .disconnect :: .finalize :: .byteIn 0x88#8 :: [] := by decide

/-- `OutputStreamDeliversThePngInOrder`: the whole of three bytes. -/
theorem witness_outputStream :
    emitting.session = .emitting ∧ emitting.pngLen.toNat = emitting.outbuf.length ∧
      emitting.outIdx.toNat + 3 = emitting.outbuf.length ∧ 0 < 3 ∧ emitting.pending = List.replicate 3 Event.outPop ++ [] := by decide

/-- `SessionImageDependsOnlyOnItsBytes`: two instances that hold different things, the same two bytes, different Ticks and reads. -/
theorem witness_sessionImage :
    let e1 := [Event.byteIn 0x88#8, .tick, .byteIn 0x33#8]
    let e2 := [Event.csrRead 0x04#8, .byteIn 0x88#8, .byteIn 0x33#8, .tick]
    let s1 := { State.reset with en := true, idleLimit := 0#32, pending := e1 ++ [.disconnect, .finalize] }
    let s2 := { State.reset with en := true, idleLimit := 0#32, skipped := 5#32, result := 3#32,
                                 pending := e2 ++ [.disconnect, .finalize] }
    s1.session = .idle ∧ s2.session = .idle ∧ s1.en = true ∧ s2.en = true ∧ s1.strict = s2.strict ∧ s1.params = s2.params ∧
      s1.idleLimit = 0#32 ∧ s2.idleLimit = 0#32 ∧ OutputEmpty s1 ∧ OutputEmpty s2 ∧
      (∀ e ∈ e1, isQuiet e = true) ∧ (∀ e ∈ e2, isQuiet e = true) ∧ bytesOf e1 = bytesOf e2 ∧ bytesOf e1 ≠ [] :=
  ⟨rfl, rfl, rfl, rfl, rfl, rfl, rfl, rfl, ⟨rfl, rfl, rfl⟩, ⟨rfl, rfl, rfl⟩, by decide, by decide, by decide, by decide⟩

/-- `EventBitsChangeOnlyAsListed`: DONE and FATAL rise, a bit falls by a write of 1. -/
theorem witness_eventBits :
    (enabled .finalize { finalizing with partCnt := 0#32 } = true ∧ isCycle .finalize = false ∧
      after (applyEvent .finalize { finalizing with partCnt := 0#32 }) (fun t => t.eventBits) = some 1#3) ∧
    (enabled .outPop { emitting with outIdx := 2#32 } = true ∧
      after (applyEvent .outPop { emitting with outIdx := 2#32 }) (fun t => t.eventBits) = some 3#3) ∧
    (enabled (.byteIn 1#8) { openState with field := .magic1 } = true ∧
      after (applyEvent (.byteIn 1#8) { openState with field := .magic1 }) (fun t => t.eventBits) = some 4#3) ∧
    (enabled (.csrWrite 0x0C#8 2#32) { emitting with eventBits := 7#3 } = true ∧
      after (applyEvent (.csrWrite 0x0C#8 2#32) { emitting with eventBits := 7#3 }) (fun t => t.eventBits) = some 5#3) := by decide

/-- `RegisterMapReadsAsListed`: the first and last reserved offsets. -/
theorem witness_registerMap : 0x40 ≤ (0x40#8 : Byte).toNat ∧ 0x40 ≤ (0xFF#8 : Byte).toNat := by decide

/-- `RegisterReadChangesNothing`: an aligned and a misaligned offset. -/
theorem witness_registerRead :
    { filled with pending := [.csrRead 0x1C#8] }.pending = .csrRead 0x1C#8 :: [] ∧ (0x1C#8 : Byte).toNat % 4 = 0 ∧
    { filled with pending := [.csrRead 0x1D#8] }.pending = .csrRead 0x1D#8 :: [] ∧ (0x1D#8 : Byte).toNat % 4 ≠ 0 := by decide

/-- `WritesToReadOnlyOrMisalignedOffsetsAreIgnored`: a read-only, a reserved and a misaligned offset. -/
theorem witness_ignoredWrites :
    ∀ offset ∈ [(0x08#8 : Byte), 0x40#8, 0x01#8],
      { filled with pending := [.csrWrite offset 1#32] }.pending = .csrWrite offset 1#32 :: [] ∧
        offset ∉ [0x00#8, 0x0C#8, 0x10#8, 0x14#8] := by decide

/-- `ControlWriteSetsEnableAndStrict`: without END, with END in an open session, with END in IDLE. -/
theorem witness_controlWrite :
    let s := fun v : Word => { filled with pending := [.csrWrite 0x00#8 v] }
    ((s 0xFFFFFFF3#32).pending = .csrWrite 0x00#8 0xFFFFFFF3#32 :: [] ∧ (0xFFFFFFF3#32 : Word).getLsbD 3 = false ∧
      (0xFFFFFFF3#32 : Word).getLsbD 2 = false) ∧
    ((7#32 : Word).getLsbD 3 = false ∧ (7#32 : Word).getLsbD 2 = true ∧ (s 7#32).session = .receiving) ∧
    { s 7#32 with session := .idle }.session = .idle := by decide

/-- `SoftResetKeepsTheConfiguration`: all bits written. -/
theorem witness_softReset :
    { filled with pending := [.csrWrite 0x00#8 0xFFFFFFFF#32] }.pending = .csrWrite 0x00#8 0xFFFFFFFF#32 :: [] ∧
      (0xFFFFFFFF#32 : Word).getLsbD 3 = true := by decide

/-- `WritableRegistersTakeTheirValues`: each register, and IDLE_LIMIT at, above and below IDLE_CNT, at 0 and with no session. -/
theorem witness_writableRegisters :
    { filled with pending := [.csrWrite 0x0C#8 1#32] }.pending = .csrWrite 0x0C#8 1#32 :: [] ∧
    { filled with pending := [.csrWrite 0x10#8 9#32] }.pending = .csrWrite 0x10#8 9#32 :: [] ∧
    { filled with pending := [.csrWrite 0x14#8 2#32] }.pending = .csrWrite 0x14#8 2#32 :: [] ∧
    { filled with idleCnt := 1#32 }.idleCnt.toNat < (2#32 : Word).toNat ∧
    ((2#32 : Word) ≠ 0#32 ∧ (2#32 : Word).toNat ≤ { filled with idleCnt := 2#32 }.idleCnt.toNat ∧ filled.session = .receiving) ∧
    (emitting.session ≠ .receiving ∧ emitting.session ≠ .aborted) := by decide

/-- `InterruptIsTheEnabledEvents`: both values of irq. -/
theorem witness_interrupt :
    { emitting with eventBits := 1#3, irqEn := 5#3 }.irq = true ∧ { emitting with eventBits := 2#3, irqEn := 5#3 }.irq = false := by decide

/-- `PixelDecodeAndPaletteAsNumbers`: the first and the last pixel. -/
theorem witness_pixel : 0 < 8 ∧ 7 < 8 := by decide

/-- `RasterCellsHaveTheCellFormsValues`: a cell of the second strip, of the second part. -/
theorem witness_rasterCells :
    let parts := [{ pal := 0xE4#8, tiles := [1#8] }, { pal := 0x1B#8, tiles := [0xFF#8] }]
    159 < 160 ∧ ((compose parts 16)[15]?).isSome = true := by decide +kernel

/-- `RasterIsCoveredExactly`: one full row. -/
theorem witness_coverage : (1#32 : Word).toNat = totalRows [{ pal := 0xE4#8, tiles := List.replicate 40 0#8 }] := by decide

/-- `PngLengthIsTheClosedForm`: one row in two blocks. -/
theorem witness_pngLength :
    smallBlocks.deflate = .stored ∧ smallBlocks.storedBlockMax ≠ 0#16 ∧ oneRow.length = 1 ∧ ∀ row ∈ oneRow, row.length = 160 := by decide +kernel

/-- `PngReadsBackAsTheRaster`: the same. -/
theorem witness_pngReadsBack :
    smallBlocks.deflate = .stored ∧ smallBlocks.storedBlockMax ≠ 0#16 ∧ oneRow.length = 1 ∧ 0 < 1 ∧ 1 < 4294967296 ∧
      (∀ row ∈ oneRow, row.length = 160) ∧ (zlibStream smallBlocks (scanlines oneRow)).length ≤ 2147483647 := by decide +kernel

/-- `OtherCompressorChangesOnlyTheIdatChunk`. -/
theorem witness_otherCompressor : finalizingOther.params.deflate = .other 3 := rfl

/-- `ResetLeavesTheListedValues`: the recommended parameters, and another reset value of IDLE_LIMIT. -/
theorem witness_reset :
    let s := { filled with pending := [.reset] }
    s.pending = .reset :: [] ∧ s.params = Config.Params.recommended ∧ (0x04#8 : Byte) ∉ [0x00#8, 0x14#8, 0x34#8, 0x38#8] ∧
      after (step { s with params := { Config.Params.recommended with idleLimitReset := 7#32 } }) (fun t => t.idleLimit) =
        some 7#32 := by decide

/-- A FILL.RAW packet before its last payload byte. -/
def lastPayloadByte : State :=
  { filled with
    field := .payload, magic := 0x3388#16, cmd := 4#8, size := 2#16, pidx := 1#16, pbuf := [7#8], palLatch := 0#8
    csumAcc := 13#16, pending := [.byteIn 8#8] }

/-- `StepKeepsTheFramerInvariant`: the last payload byte of a packet. -/
theorem witness_framerInvariant : FramerInv lastPayloadByte ∧ ∃ t, step lastPayloadByte = .next t ∧ t.field = .csum0 :=
  ⟨fun _ => ⟨rfl, rfl, rfl, by decide, fun h => absurd h (by decide), fun _ => rfl,
    show (1#16 : Half).toNat < (2#16 : Half).toNat by decide⟩, _, rfl, by decide⟩

/-- `StepKeepsTheTimerInvariant`: the Tick at which the session ends. -/
theorem witness_timerInvariant :
    let s := { openState with idleLimit := 3#32, idleCnt := 2#32, pending := [.tick] }
    TimerInv s ∧ ∃ t, step s = .next t ∧ t.session = .finalizing :=
  ⟨⟨fun h => by revert h; decide, fun _ _ => by decide⟩, _, rfl, rfl⟩

/-- `StepKeepsTheMemoryInvariant`: a FILL that fills the store to the last byte. -/
theorem witness_memoryInvariant :
    let s := { atStatus 21#16 0#8 with params := { Config.Params.recommended with storeBytes := 4#32 } }
    MemoryInv s ∧ ∃ t, step s = .next t ∧ t.storeUsed = 4#32 :=
  ⟨⟨rfl, rfl, rfl, by decide, by decide, by decide, by decide, by decide, fun _ => by decide⟩, _, rfl, rfl⟩

/-- `StepKeepsTheOutputInvariant`: the Finalize step of a session with one part. -/
theorem witness_outputInvariant :
    finalizing.params.inRange = true ∧ MemoryInv { finalizing with vramLen := 0#32 } ∧ OutputInv { finalizing with vramLen := 0#32 } ∧
      ∃ t, step { finalizing with vramLen := 0#32 } = .next t ∧ t.session = .emitting :=
  ⟨by decide, ⟨rfl, rfl, .inl rfl, by decide, by decide, by decide, by decide, by decide, fun _ => by decide⟩,
    ⟨⟨rfl, rfl, rfl⟩, rfl, rfl, rfl⟩, _, rfl, by decide +kernel⟩

/-- `CycleOfOneEventIsThatEventAndAByteDisplacesATick`: a byte, and the disconnect input rising, held and released. -/
theorem witness_cycle :
    let c : CycleIn := { rst := false, inData := some 1#8, disconnect := true, tick := false, outReady := false, csr := none,
                         finalizeNow := true }
    let edge : CycleIn := { c with inData := none, finalizeNow := false }
    (openState.inReady = true ∧ c.rst = false ∧ c.csr = none ∧ c.inData = some 1#8) ∧
    after (cycleEvent edge openState) (fun t => (t.session, t.disconnectLevel)) = some (.finalizing, true) ∧
    after (cycleEvent edge { openState with disconnectLevel := true }) (fun t => (t.session, t.disconnectLevel)) =
      some (.receiving, true) ∧
    after (cycleEvent { edge with disconnect := false } { openState with disconnectLevel := true })
      (fun t => (t.session, t.disconnectLevel)) = some (.receiving, false) := by decide

/-- `EventSetWinsOverItsClear`. -/
theorem witness_setWins :
    let s := { openState with field := .magic1, magic := 0x88#16, eventBits := 7#3 }
    s.en = true ∧ s.session = .receiving ∧ s.field = .magic1 ∧ s.magic ||| ((0x34#8 : Byte).setWidth 16 <<< 8) ≠ 0x3388#16 := by decide

end Sys2Proof.Tests
end

section
/-! Proofs about the commands' memory: the decompressor read as numbers, and what each command does to VRAM byte by byte. -/

namespace Sys2Proof.Machine

open Sys2Proof.Safety

/-! ### The RLE control byte as a number (30_encoding.md R140 to R142) -/

/-- Bit 7 of a control byte, which marks a RUN, says that the byte is at least 128. -/
theorem controlByte_getLsbD_seven (c : Byte) : c.getLsbD 7 = decide (128 ≤ c.toNat) := by
  have hc := c.isLt
  rw [BitVec.getLsbD, Nat.testBit_eq_decide_div_mod_eq]
  exact decide_eq_decide.2 (by omega)

/-- c[6:0] of a control byte as a number. -/
theorem controlByte_low_toNat (c : Byte) : (c.extractLsb' 0 7).toNat = c.toNat % 128 := by
  simp [BitVec.extractLsb'_toNat]

/-- A RUN code at the payload's end has no value byte. -/
theorem decodeCode_run_nil {c : Byte} (hc : 128 ≤ c.toNat) :
    decodeCode c [] = (.rleRun (c.extractLsb' 0 7) none, []) := by
  simp [decodeCode, controlByte_getLsbD_seven, hc]

/-- A RUN code takes the byte after it as its value. -/
theorem decodeCode_run_cons {c : Byte} (hc : 128 ≤ c.toNat) (v : Byte) (tail : List Byte) :
    decodeCode c (v :: tail) = (.rleRun (c.extractLsb' 0 7) (some v), tail) := by
  simp [decodeCode, controlByte_getLsbD_seven, hc]

/-- A LIT code takes the c + 1 bytes after it, or what is left of them. -/
theorem decodeCode_lit {c : Byte} (hc : ¬ 128 ≤ c.toNat) (rest : List Byte) :
    decodeCode c rest = (.rleLit (c.extractLsb' 0 7) (rest.take (c.toNat + 1)), rest.drop (c.toNat + 1)) := by
  have hn : (c.extractLsb' 0 7).toNat = c.toNat := by rw [controlByte_low_toNat]; omega
  simp only [decodeCode, controlByte_getLsbD_seven, hc, hn, decide_false, Bool.false_eq_true, if_false]

/-! ### The decompressor is its reading as numbers (42_rle.md R240 to R244) -/

/-- One round of the loop: decode a code, execute it, go on unless bad is set. -/
theorem rleLoop_succ_cons (fuel : Nat) (c : Byte) (rest : List Byte) (s : State) :
    rleLoop (fuel + 1) (c :: rest) s =
      onNext (execCode (decodeCode c rest).1 s) fun t =>
        if t.rle.bad then .next t else rleLoop fuel (decodeCode c rest).2 t := rfl

/-- A literal span cut by the payload's end: its bytes are output and bad is set (R244). -/
theorem execRleLit_of_cut {n : BitVec 7} {bytes : List Byte} (h : bytes.length < n.toNat + 1) (s : State) :
    execRleLit n bytes s = .next { s with rle := { out := s.rle.out ++ bytes, bad := true } } :=
  if_pos h

/-- A whole literal span is copied (R242). -/
theorem execRleLit_of_whole {n : BitVec 7} {bytes : List Byte} (h : bytes.length = n.toNat + 1) (s : State) :
    execRleLit n bytes s = .next { s with rle := { s.rle with out := s.rle.out ++ bytes } } := by
  have htake : bytes.take (litLength n) = bytes := List.take_of_length_le (by simp [litLength, h])
  rw [execRleLit, if_neg (by simp [litLength, h]), htake]

/-- The machine's loop and `decompressFrom` take the same codes in the same rounds. -/
theorem rleLoop_eq_decompressFrom (fuel : Nat) (payload d : List Byte) (s : State) :
    rleLoop fuel payload { s with rle := { out := d, bad := false } } =
      .next { s with rle := { out := (decompressFrom fuel payload d).1, bad := (decompressFrom fuel payload d).2 } } := by
  induction fuel generalizing payload d with
  | zero => rfl
  | succ fuel ih =>
    cases payload with
    | nil => rfl
    | cons c rest =>
      have hlow := controlByte_low_toNat c
      have hlt := c.isLt
      rw [rleLoop_succ_cons]
      by_cases hc : 128 ≤ c.toNat
      · cases rest with
        | nil => simp [decodeCode_run_nil hc, execCode, execRleRun, decompressFrom, hc]
        | cons v tail =>
          have hrun : runLength (c.extractLsb' 0 7) = c.toNat - 128 + 2 := by rw [runLength, hlow]; omega
          simp [decodeCode_run_cons hc, execCode, execRleRun, hrun, ih, decompressFrom, hc]
      · have hn : (c.extractLsb' 0 7).toNat = c.toNat := by omega
        rw [decodeCode_lit hc]
        by_cases hcut : rest.length < c.toNat + 1
        · have htake : rest.take (c.toNat + 1) = rest := List.take_of_length_le (by omega)
          simp [execCode, htake, execRleLit_of_cut (n := c.extractLsb' 0 7) (hn ▸ hcut), decompressFrom, hc, hcut]
        · have hwhole : (rest.take (c.toNat + 1)).length = (c.extractLsb' 0 7).toNat + 1 := by
            rw [List.length_take, hn]; omega
          simp [execCode, execRleLit_of_whole hwhole, ih, decompressFrom, hc, hcut]

/-- rle_decompress on the working variables is `decompress` (42_rle.md R240). -/
theorem runDecompressor_eq_decompress (payload : List Byte) (s : State) :
    runDecompressor payload s =
      .next { s with rle := { out := (decompress payload).1, bad := (decompress payload).2 } } :=
  rleLoop_eq_decompressFrom payload.length payload [] s

/-! ### What each command does, as an equation -/

theorem exec_init (comp : Byte) (payload : List Byte) (s : State) :
    exec (.init comp payload) s = .next { s with vram := [], vramLen := 0#32 } := rfl

theorem exec_status (comp : Byte) (payload : List Byte) (s : State) : exec (.status comp payload) s = .next s := rfl

theorem exec_other (cmd comp : Byte) (payload : List Byte) (s : State) :
    exec (.other cmd comp payload) s = .next s := rfl

theorem exec_fillRaw (payload : List Byte) (s : State) :
    exec (.fillRaw payload) s = .next (storeAppend payload s) := rfl

/-- PRINT below MAX_PARTS (41_commands.md R227). -/
theorem exec_print_of_room {s : State} (h : s.partCnt ≠ s.params.maxParts) (comp : Byte) (payload : List Byte) :
    exec (.print comp payload) s = .next
      { s with
        parts := s.parts ++ [{ pal := s.palLatch, tiles := s.vram }]
        partCnt := s.partCnt + 1#32
        rowsAcc := addRows s.rowsAcc (tileRows s.vram) } :=
  if_neg h

/-- FILL.RLE stores what its payload decompresses to, as numbers (41_commands.md R224, R225). -/
theorem exec_fillRle (comp : Byte) (payload : List Byte) (s : State) :
    exec (.fillRle comp payload) s =
      .next (storeAppend (decompress payload).1
        { s with rleBad := s.rleBad || (decompress payload).2, rle := RleUnit.empty }) := by
  change execFillRle payload s = _
  rw [execFillRle, runDecompressor_eq_decompress, onNext_next]

/-- An RLE code changes the working variables only. -/
theorem exec_rle_next {i : Instr} (hi : i.codeSet = .rle) (s : State) : ∃ u, exec i s = .next { s with rle := u } := by
  cases i with
  | rleRun n v => exact execCode_next (.rleRun n v) s
  | rleLit n bytes => exact execCode_next (.rleLit n bytes) s
  | _ => cases hi

/-- VRAM is no working variable of the decompressor. -/
theorem exec_rle_keeps_vram {i : Instr} {s t : State} (hi : i.codeSet = .rle) (h : exec i s = .next t) : t.vram = s.vram := by
  obtain ⟨u, hu⟩ := exec_rle_next hi s
  cases hu.symm.trans h
  rfl

/-- The append where it fits (41_commands.md R226). -/
theorem storeAppend_of_fits {d : List Byte} {s : State} (h : s.storeUsed.toNat + d.length ≤ s.params.storeBytes.toNat) :
    storeAppend d s = appendVram d s := by
  rcases storeAppend_cases d s with ⟨_, happend⟩ | ⟨hfull, _⟩
  · exact happend
  · omega

/-- The abort where it does not (41_commands.md R226). -/
theorem storeAppend_of_full {d : List Byte} {s : State} (h : s.params.storeBytes.toNat < s.storeUsed.toNat + d.length) :
    storeAppend d s = raiseFatal .overflow 4#32 s := by
  rcases storeAppend_cases d s with ⟨hfit, _⟩ | ⟨_, habort⟩
  · omega
  · exact habort

/-- FILL.RAW where its payload fits the store (41_commands.md R223). -/
theorem exec_fillRaw_of_fits {payload : List Byte} {s : State}
    (h : s.storeUsed.toNat + payload.length ≤ s.params.storeBytes.toNat) :
    exec (.fillRaw payload) s = .next (appendVram payload s) :=
  congrArg _ (storeAppend_of_fits h)

/-- FILL.RLE where its output fits the store (41_commands.md R224). -/
theorem exec_fillRle_of_fits {payload : List Byte} {s : State}
    (h : s.storeUsed.toNat + (decompress payload).1.length ≤ s.params.storeBytes.toNat) (comp : Byte) :
    exec (.fillRle comp payload) s =
      .next (appendVram (decompress payload).1
        { s with rleBad := s.rleBad || (decompress payload).2, rle := RleUnit.empty }) :=
  (exec_fillRle comp payload s).trans (congrArg _ (storeAppend_of_fits h))

/-! ### VRAM byte by byte (00_scope.md R14) -/

/-- Only VRAM is read. -/
theorem memRead_congr {s t : State} (h : t.vram = s.vram) (a : Nat) : memRead t a = memRead s a :=
  congrArg (·[a]?) h

/-- An append keeps every byte below the old end. -/
theorem memRead_appendVram_below (d : List Byte) {s : State} {a : Nat} (h : a < s.vram.length) :
    memRead (appendVram d s) a = memRead s a :=
  List.getElem?_append_left h

/-- An append stores its bytes from the old end on. -/
theorem memRead_appendVram_from (d : List Byte) (s : State) (k : Nat) :
    memRead (appendVram d s) (s.vram.length + k) = d[k]? := by
  simp [memRead, List.getElem?_append_right]

end Sys2Proof.Machine

namespace Sys2Proof.Proofs

open Sys2Proof.Machine Sys2Proof.Safety

/-- Settles O15: each command's equation, read through `memRead`. A FILL that fits is an append to the VRAM of `s`; the other
commands and the codes leave VRAM as it is, or empty it. -/
theorem vramBytesOutsideTheAppendAreKept : Obligations.VramBytesOutsideTheAppendAreKept := by
  intro s t comp cmd payload n v
  refine ⟨fun hfit h => ?raw, fun hfit h => ?rle, fun hroom h => ?print, fun h => ?none, fun h => ?init⟩
  case raw =>
    cases (exec_fillRaw_of_fits hfit).symm.trans h
    exact ⟨fun _ => memRead_appendVram_below payload, memRead_appendVram_from payload s⟩
  case rle =>
    cases (exec_fillRle_of_fits hfit comp).symm.trans h
    exact ⟨fun _ => memRead_appendVram_below _, memRead_appendVram_from _ _⟩
  case print =>
    cases (exec_print_of_room hroom comp payload).symm.trans h
    exact fun _ => rfl
  case none =>
    refine memRead_congr ?_
    obtain h | h | h | h := h
    · cases (exec_status comp payload s).symm.trans h
      rfl
    · cases (exec_other cmd comp payload s).symm.trans h
      rfl
    · exact exec_rle_keeps_vram rfl h
    · exact exec_rle_keeps_vram rfl h
  case init =>
    cases (exec_init comp payload s).symm.trans h
    exact fun _ => rfl

end Sys2Proof.Proofs
end

section
/-! Proofs about the clocked cycle: raising EVENTS bits before a byte, a Tick or a disconnect edge is the same as after it, so
that a cycle without resets, register accesses and output steps is its byte and then its timers. -/

namespace Sys2Proof.Machine

/-! ### Raising EVENTS bits commutes with what a cycle does before its register write (60_exceptions.md R415, R416) -/

/-- Bits that are set already. -/
theorem raiseEvents_own_bits (bits : BitVec 3) (s : State) :
    raiseEvents s.eventBits (raiseEvents bits s) = raiseEvents bits s := by
  simp only [raiseEvents, BitVec.or_assoc, BitVec.or_comm bits]
  simp only [← BitVec.or_assoc, BitVec.or_self]

/-- EVENTS cleared and raised again. -/
theorem raiseEvents_cleared (s : State) : raiseEvents s.eventBits { s with eventBits := 0#3 } = s := by
  simp [raiseEvents]

theorem raiseFatal_raiseEvents (bits : BitVec 3) (kind : FatalKind) (info : Word) (s : State) :
    raiseFatal kind info (raiseEvents bits s) = raiseEvents bits (raiseFatal kind info s) := by
  simp only [raiseFatal, raiseEvents, BitVec.or_assoc, BitVec.or_comm bits]

theorem storeAppend_raiseEvents (bits : BitVec 3) (d : List Byte) (s : State) :
    storeAppend d (raiseEvents bits s) = raiseEvents bits (storeAppend d s) := by
  rcases storeAppend_cases d s with ⟨hfit, h⟩ | ⟨hfull, h⟩
  · rw [h]
    exact storeAppend_of_fits (s := raiseEvents bits s) hfit
  · rw [h, ← raiseFatal_raiseEvents]
    exact storeAppend_of_full (s := raiseEvents bits s) hfull

/-- An operation that neither reads nor clears EVENTS: bits raised before it are bits raised after it. -/
def CommutesWithEvents (f : State → Outcome) : Prop :=
  ∀ (bits : BitVec 3) (s : State), f (raiseEvents bits s) = onNext (f s) fun t => .next (raiseEvents bits t)

/-- No command and no code reads or clears EVENTS. -/
theorem exec_commutesWithEvents (i : Instr) : CommutesWithEvents (exec i) := by
  intro bits s
  cases i with
  | init _ _ => rfl
  | print comp payload =>
    by_cases h : s.partCnt = s.params.maxParts
    · simp only [exec, execPrint, raiseFatal_raiseEvents, if_pos h, onNext_next]
      exact if_pos h
    · rw [exec_print_of_room h, exec_print_of_room (s := raiseEvents bits s) h]
      rfl
  | fillRaw payload => simp only [exec_fillRaw, storeAppend_raiseEvents, onNext_next]
  | fillRle comp payload =>
    simp only [exec_fillRle, onNext_next, ← storeAppend_raiseEvents]
    rfl
  | status _ _ => rfl
  | other _ _ _ => rfl
  | rleRun n v => cases v <;> rfl
  | rleLit n bytes =>
    by_cases h : bytes.length < litLength n <;> simp only [exec, execRleLit, h, if_true, if_false, onNext_next] <;> rfl

theorem commit_commutesWithEvents : CommutesWithEvents commit := by
  intro bits s
  change onNext (exec (latchedInstr s) (raiseEvents bits s)) _ = onNext (onNext (exec (latchedInstr s) s) _) _
  rw [exec_commutesWithEvents]
  cases exec (latchedInstr s) s <;> rfl

/-- Validation (40_framer.md R195): the commit, the abort or the skip. -/
theorem fieldStatus_commutesWithEvents (b : Byte) : CommutesWithEvents (fieldStatus b) := by
  intro bits s
  by_cases hmatch : s.csumAcc = s.csumRx
  · simp only [fieldStatus, if_pos hmatch]
    exact (if_pos hmatch).trans (commit_commutesWithEvents bits { s with stat := b, field := .magic0 })
  · by_cases hfatal : (b.getLsbD 0 && s.strict) = true
    · simp only [fieldStatus, if_neg hmatch, if_pos hfatal, onNext_next, ← raiseFatal_raiseEvents]
      exact (if_neg hmatch).trans (if_pos hfatal)
    · simp only [fieldStatus, if_neg hmatch, if_neg hfatal, onNext_next]
      exact (if_neg hmatch).trans (if_neg hfatal)

/-- Only the magic check and the validation can raise an event bit (40_framer.md R186, R195). -/
theorem fieldRule_commutesWithEvents (b : Byte) : CommutesWithEvents (fieldRule b) := by
  intro bits s
  have hfield : (raiseEvents bits s).field = s.field := rfl
  unfold fieldRule
  rw [hfield]
  cases s.field with
  | magic1 =>
    by_cases hm : s.magic ||| high16 b = Config.magic
    · simp only [fieldMagic1, if_pos hm, onNext_next]
      exact congrArg _ (if_pos hm)
    · simp only [fieldMagic1, if_neg hm, onNext_next, ← raiseFatal_raiseEvents]
      exact congrArg _ (if_neg hm)
  | status => exact fieldStatus_commutesWithEvents b bits s
  | _ => rfl

theorem byteInEvent_commutesWithEvents (b : Byte) : CommutesWithEvents (byteInEvent b) := by
  intro bits s
  have hsession : (raiseEvents bits s).session = s.session := rfl
  unfold byteInEvent
  rw [hsession]
  cases s.session with
  | receiving => exact fieldRule_commutesWithEvents b bits { s with session := .receiving, idleCnt := 0#32 }
  | _ => rfl

theorem cycleByte_commutesWithEvents (accepted : Option Byte) : CommutesWithEvents (cycleByte accepted) := by
  cases accepted with
  | none => exact fun _ _ => rfl
  | some b => exact byteInEvent_commutesWithEvents b

theorem closeFramer_raiseEvents (bits : BitVec 3) (s : State) :
    closeFramer (raiseEvents bits s) = raiseEvents bits (closeFramer s) := by
  rw [closeFramer, closeFramer, apply_ite (raiseEvents bits)]
  rfl

theorem endEvent_raiseEvents (bits : BitVec 3) (s : State) :
    endEvent (raiseEvents bits s) = raiseEvents bits (endEvent s) := by
  have hsession : (raiseEvents bits s).session = s.session := rfl
  unfold endEvent
  rw [hsession]
  cases s.session with
  | receiving =>
    simp only [closeFramer_raiseEvents]
    rfl
  | _ => rfl

theorem timeoutCheck_raiseEvents (bits : BitVec 3) (s : State) :
    timeoutCheck (raiseEvents bits s) = raiseEvents bits (timeoutCheck s) := by
  rw [timeoutCheck, timeoutCheck, apply_ite (raiseEvents bits), ← endEvent_raiseEvents]
  rfl

theorem tickEvent_raiseEvents (bits : BitVec 3) (s : State) :
    tickEvent (raiseEvents bits s) = raiseEvents bits (tickEvent s) := by
  rw [tickEvent, tickEvent, apply_ite (raiseEvents bits), ← timeoutCheck_raiseEvents]
  rfl

theorem cycleTimers_raiseEvents (c : CycleIn) (byteTaken : Bool) (bits : BitVec 3) (s : State) :
    cycleTimers c byteTaken (raiseEvents bits s) = raiseEvents bits (cycleTimers c byteTaken s) := by
  have htick : (if (c.tick && !byteTaken) = true then tickEvent (raiseEvents bits s) else raiseEvents bits s) =
      raiseEvents bits (if (c.tick && !byteTaken) = true then tickEvent s else s) := by
    rw [tickEvent_raiseEvents, apply_ite (raiseEvents bits)]
  simp only [cycleTimers, htick, disconnectEvent, endEvent_raiseEvents]
  exact (apply_ite (raiseEvents bits) _ _ _).symm

/-! ### Cycles without a reset and a register access -/

/-- What a cycle without rst, register access, OutPop and Finalize is: its byte, if one is accepted, and then its timers, the
EVENTS bits kept as each leaves them (60_exceptions.md R421). -/
theorem cycleEvent_byte_and_timers {c : CycleIn} (hrst : c.rst = false) (hcsr : c.csr = none) (hout : c.outReady = false)
    (hfin : c.finalizeNow = false) (s : State) :
    cycleEvent c s =
      onNext (cycleByte (acceptedByte c s) s) fun t =>
        .next { cycleTimers c (acceptedByte c s).isSome t with disconnectLevel := c.disconnect } := by
  have hresets : cycleResets c s = s := by simp [cycleResets, hrst, hcsr]
  have hwrite (u : State) : cycleWrite c u = u := by simp [cycleWrite, hcsr]
  have houtput (u : State) : cycleOutput c u = u := by simp [cycleOutput, hout, hfin]
  have hread (u : State) : cycleRead c u = u := by simp [cycleRead, hcsr]
  have hbyte := cycleByte_commutesWithEvents (acceptedByte c s) s.eventBits { s with eventBits := 0#3 }
  rw [raiseEvents_cleared] at hbyte
  simp only [cycleEvent, hresets, withRaised, hwrite, houtput, hread, raiseEvents_own_bits, hbyte]
  cases cycleByte (acceptedByte c s) { s with eventBits := 0#3 } with
  | next t => simp only [onNext_next, cycleTimers_raiseEvents]
  | fault r => rfl
  | refused r => rfl

/-- A Tick in the cycle of an accepted byte is not counted (45_session.md R343). -/
theorem cycleTimers_tick_displaced (c : CycleIn) (tick : Bool) (s : State) :
    cycleTimers { c with tick := tick } true s = cycleTimers { c with tick := false } true s := by
  simp [cycleTimers]

/-- The byte of a cycle with no reset that is ready for it is accepted (40_framer.md R180). -/
theorem acceptedByte_of_ready {s : State} (hready : s.inReady = true) (c : CycleIn) : acceptedByte c s = c.inData :=
  if_pos hready

theorem acceptedByte_of_no_data {c : CycleIn} (h : c.inData = none) (s : State) : acceptedByte c s = none := by
  simp [acceptedByte, h]

/-- A Tick in the cycle of an accepted byte leaves the cycle's effect as it is (60_exceptions.md R421), whatever else the cycle
does after it. -/
theorem cycleEvent_tick_displaced {c : CycleIn} {b : Byte} {s : State} (hrst : c.rst = false) (hcsr : c.csr = none)
    (hdata : c.inData = some b) (hready : s.inReady = true) (tick : Bool) :
    cycleEvent { c with tick := tick } s = cycleEvent { c with tick := false } s := by
  have hresets (x : Bool) : cycleResets { c with tick := x } s = s := by simp [cycleResets, hrst, hcsr]
  have haccepted (x : Bool) : acceptedByte { c with tick := x } s = some b :=
    (acceptedByte_of_ready hready _).trans hdata
  simp only [cycleEvent, hresets, haccepted, Option.isSome_some, cycleTimers_tick_displaced c tick]
  rfl

end Sys2Proof.Machine

namespace Sys2Proof.Proofs

open Sys2Proof.Machine

/-- Settles O59: in each of the four cycles only the byte or one of the timers acts (`cycleEvent_byte_and_timers`); a byte's cycle
does not count its Tick (`cycleEvent_tick_displaced`). -/
theorem cycleOfOneEventIsThatEventAndAByteDisplacesATick :
    Obligations.CycleOfOneEventIsThatEventAndAByteDisplacesATick := by
  intro b s
  refine ⟨fun hready => ?byte, ?tick, ?disconnect, ?quiet,
    fun c hrst hcsr hdata hready => cycleEvent_tick_displaced hrst hcsr hdata hready true⟩
  case byte =>
    rw [cycleEvent_byte_and_timers rfl rfl rfl rfl, acceptedByte_of_ready hready]
    rfl
  case tick =>
    rw [cycleEvent_byte_and_timers rfl rfl rfl rfl, acceptedByte_of_no_data rfl]
    rfl
  case disconnect =>
    rw [cycleEvent_byte_and_timers rfl rfl rfl rfl, acceptedByte_of_no_data rfl]
    cases hlevel : s.disconnectLevel with
    | false => simp [cycleByte, cycleTimers, hlevel]
    | true =>
      have hsame : { s with disconnectLevel := true } = s := by rw [← hlevel]
      simp [cycleByte, cycleTimers, hlevel, hsame]
  case quiet =>
    rw [cycleEvent_byte_and_timers rfl rfl rfl rfl, acceptedByte_of_no_data rfl]
    rfl

end Sys2Proof.Proofs
end

section
/-! Proofs about the register window: which register an offset names, what it reads as, and what a write to it does. -/

namespace Sys2Proof.Machine

/-! ### Offsets (10_state.md R50, R67) -/

/-- `aligned` as a number (20_memory.md R106). -/
theorem aligned_iff (offset : Byte) : aligned offset = true ↔ offset.toNat % 4 = 0 := by
  rw [aligned, beq_iff_eq, ← BitVec.toNat_inj]
  simp [BitVec.extractLsb'_toNat]

theorem Reg.aligned_offset (r : Reg) : aligned r.offset = true := by
  cases r <;> decide

/-- Every register lies below the reserved offsets. -/
theorem Reg.offset_toNat_lt (r : Reg) : r.offset.toNat < 0x40 := by
  cases r <;> decide

/-- No two registers share an offset. -/
@[simp] theorem regAt_offset (r : Reg) : regAt r.offset = some r := by
  cases r <;> rfl

theorem offset_of_regAt {offset : Byte} {r : Reg} (h : regAt offset = some r) : r.offset = offset := by
  simpa using List.find?_some h

/-- The offsets from 0x40 on are reserved. -/
theorem regAt_of_reserved {offset : Byte} (h : 0x40 ≤ offset.toNat) : regAt offset = none := by
  cases hr : regAt offset with
  | none => rfl
  | some r =>
    have hlt := r.offset_toNat_lt
    rw [offset_of_regAt hr] at hlt
    omega

@[simp] theorem readOffset_offset (r : Reg) (s : State) : readOffset r.offset s = readReg r s := by
  simp [readOffset]

theorem readOffset_of_reserved {offset : Byte} (h : 0x40 ≤ offset.toNat) (s : State) : readOffset offset s = 0#32 := by
  simp [readOffset, regAt_of_reserved h]

/-! ### CTRL and STATUS as numbers (10_state.md R51, R52) -/

/-- A value placed above another one that stays below it: the bits are those of the sum. -/
theorem or_shiftLeft_toNat {x y : Word} {k : Nat} (hx : x.toNat < 2 ^ k) (hy : y.toNat * 2 ^ k < 2 ^ 32) :
    (x ||| y <<< k).toNat = x.toNat + 2 ^ k * y.toNat := by
  rw [BitVec.toNat_or, BitVec.toNat_shiftLeft, Nat.shiftLeft_eq, Nat.mod_eq_of_lt hy, Nat.or_comm, ← Nat.shiftLeft_eq,
    ← Nat.shiftLeft_add_eq_or_of_lt hx, Nat.shiftLeft_eq]
  ring

theorem bit_toNat (b : Bool) : (bit b).toNat = b.toNat := by
  cases b <;> rfl

theorem SessionState.code_toNat_lt (x : SessionState) : x.code.toNat < 8 := by
  cases x <;> decide

theorem FramerField.code_toNat_lt (f : FramerField) : f.code.toNat < 16 := by
  cases f <;> decide

theorem ctrlWord_toNat (s : State) : s.ctrlWord.toNat = s.en.toNat + 2 * s.strict.toNat := by
  have hen : (bit s.en).toNat < 2 := bit_toNat _ ▸ s.en.toNat_lt
  have hstrict : (bit s.strict).toNat < 2 := bit_toNat _ ▸ s.strict.toNat_lt
  rw [State.ctrlWord, or_shiftLeft_toNat (by omega) (by omega), bit_toNat, bit_toNat]
  rfl

/-- The four parts of STATUS lie side by side. -/
theorem statusWord_toNat (s : State) :
    s.statusWord.toNat =
      s.session.code.toNat + 8 * s.midPacket.toNat + 16 * s.field.code.toNat + 256 * (s.session == .emitting).toNat := by
  have hsession := s.session.code_toNat_lt
  have hmid : (bit s.midPacket).toNat < 2 := bit_toNat _ ▸ s.midPacket.toNat_lt
  have hfield := s.field.code_toNat_lt
  have hout : (bit (s.session == .emitting)).toNat < 2 := bit_toNat _ ▸ Bool.toNat_lt _
  have h3 := or_shiftLeft_toNat (k := 3) (x := s.session.code) (y := bit s.midPacket) (by omega) (by omega)
  have h4 := or_shiftLeft_toNat (k := 4) (x := s.session.code ||| bit s.midPacket <<< 3) (y := s.field.code)
    (by omega) (by omega)
  rw [State.statusWord, or_shiftLeft_toNat (by omega) (by omega), h4, h3, bit_toNat, bit_toNat]
  rfl

/-! ### Writes (20_memory.md R110) -/

@[simp] theorem writeOffset_offset (r : Reg) (v : Word) (s : State) : writeOffset r.offset v s = writeReg r v s := by
  simp [writeOffset]

/-- Only CTRL, EVENTS, IRQ_EN and IDLE_LIMIT can be written (10_state.md R50, R67). -/
theorem writeOffset_of_readOnly {offset : Byte} (h : offset ∉ [0x00#8, 0x0C#8, 0x10#8, 0x14#8]) (v : Word) (s : State) :
    writeOffset offset v s = s := by
  cases hr : regAt offset with
  | none => simp [writeOffset, hr]
  | some r =>
    rw [← offset_of_regAt hr] at h ⊢
    rw [writeOffset_offset]
    cases r with
    | ctrl => simp [Reg.offset] at h
    | events => simp [Reg.offset] at h
    | irqEn => simp [Reg.offset] at h
    | idleLimit => simp [Reg.offset] at h
    | _ => rfl

/-- The step on a pending register write. -/
theorem step_csrWrite {offset : Byte} {v : Word} {rest : List Event} {s : State}
    (hp : s.pending = .csrWrite offset v :: rest) : step s = .next (csrWriteEvent offset v (beginEvent rest s)) :=
  step_head hp rfl

/-- The step on a pending write of a register: its effect, acknowledged. -/
theorem step_writeReg (r : Reg) {v : Word} {rest : List Event} {s t : State} (hp : s.pending = .csrWrite r.offset v :: rest)
    (ht : writeReg r v (beginEvent rest s) = t) : step s = .next { t with csrAnswer := .written } := by
  rw [step_csrWrite hp, csrWriteEvent, if_pos r.aligned_offset, writeOffset_offset, ht]

theorem isOpen_iff (s : State) : s.isOpen = true ↔ s.session = .receiving ∨ s.session = .aborted := by
  simp [State.isOpen]

/-- With no open session an end event does nothing (45_session.md R349). -/
theorem endEvent_of_not_open {s : State} (h : s.isOpen = false) : endEvent s = s := by
  unfold endEvent
  cases hs : s.session with
  | receiving => simp [State.isOpen, hs] at h
  | aborted => simp [State.isOpen, hs] at h
  | _ => rfl

/-- What an end event does to an open session (45_session.md R347, R348; 40_framer.md R200). -/
theorem endEvent_of_open {s : State} (h : s.isOpen = true) :
    endEvent s = { s with
      session := .finalizing, idleCnt := 0#32
      trunc := s.trunc || s.midPacket, pbuf := if s.midPacket then [] else s.pbuf
      field := if s.session = .receiving then .magic0 else s.field } := by
  rcases endEvent_cases s with ⟨hs, hfield, he⟩ | ⟨hs, hfield, he⟩ | ⟨hs, he⟩ | ⟨hclosed, -⟩
  · simp [he, State.midPacket, hs, hfield]
  · simp [he, State.midPacket, hs, hfield]
  · simp [he, State.midPacket, hs]
  · simp [h] at hclosed

/-- A write of CTRL with neither SRST nor END stores EN and STRICT (10_state.md R51). -/
theorem writeCtrl_of_no_end {v : Word} (hsrst : v.getLsbD 3 = false) (hend : v.getLsbD 2 = false) (s : State) :
    writeCtrl v s = { s with en := v.getLsbD 0, strict := v.getLsbD 1 } := by
  simp only [writeCtrl, hsrst, hend, Bool.false_eq_true, if_false]

/-- With END the write is an end event, too (45_session.md R346). -/
theorem writeCtrl_of_end {v : Word} (hsrst : v.getLsbD 3 = false) (hend : v.getLsbD 2 = true) (s : State) :
    writeCtrl v s = endEvent { s with en := v.getLsbD 0, strict := v.getLsbD 1 } := by
  simp only [writeCtrl, hsrst, hend, Bool.false_eq_true, if_false, if_true]

/-- A write of IDLE_LIMIT that lets the timeout fire ends the session (45_session.md R345). -/
theorem writeIdleLimit_of_timedOut {v : Word} {s : State} (h : timedOut { s with idleLimit := v } = true) :
    writeReg .idleLimit v s = endEvent { s with idleLimit := v } :=
  if_pos h

theorem writeIdleLimit_of_not_timedOut {v : Word} {s : State} (h : ¬ timedOut { s with idleLimit := v } = true) :
    writeReg .idleLimit v s = { s with idleLimit := v } :=
  if_neg h

end Sys2Proof.Machine

namespace Sys2Proof.Proofs

open Sys2Proof.Machine

/-- Settles O38: each offset names its register (`readOffset_offset`), and the parts of CTRL and STATUS do not overlap
(`ctrlWord_toNat`, `statusWord_toNat`). -/
theorem registerMapReadsAsListed : Obligations.RegisterMapReadsAsListed := by
  intro s
  have hread (r : Reg) : readOffset r.offset s = readReg r s := readOffset_offset r s
  refine ⟨ctrlWord_toNat s, (statusWord_toNat s).trans ?status, hread .result, ?events, ?irqEn, hread .idleLimit,
    hread .skipped, hread .parts, hread .rowsAcc, hread .imgHeight, hread .pngLen, hread .vramLen, hread .storeUsed,
    hread .capStore, hread .capParts, hread .faultInfo, fun offset h => readOffset_of_reserved h s⟩
  case status =>
    refine congrArg₂ (· + ·) (congrArg₂ (· + ·) (congrArg₂ (· + ·) ?session ?midPacket) (congrArg (16 * ·) ?field)) ?out
    case session => cases s.session <;> rfl
    case midPacket =>
      have hiff : s.midPacket = true ↔ s.session = .receiving ∧ s.field ≠ .magic0 := by simp [State.midPacket]
      simp only [← hiff]
      cases s.midPacket <;> rfl
    case field => cases s.field <;> rfl
    case out =>
      by_cases h : s.session = .emitting <;> simp [h]
  case events => exact BitVec.toNat_setWidth_of_le (by omega)
  case irqEn => exact BitVec.toNat_setWidth_of_le (by omega)

/-- Settles O40: the write is answered, and `writeOffset` does nothing at these offsets. -/
theorem writesToReadOnlyOrMisalignedOffsetsAreIgnored : Obligations.WritesToReadOnlyOrMisalignedOffsetsAreIgnored := by
  intro offset v rest s hp hreadOnly
  rw [step_csrWrite hp, csrWriteEvent, writeOffset_of_readOnly hreadOnly]
  by_cases h : offset.toNat % 4 = 0
  · simp [(aligned_iff offset).2 h, h, beginEvent]
  · simp [h, beginEvent, aligned_iff]

/-- Settles O41: without SRST a CTRL write stores EN and STRICT, and END is the end event on top of that, which acts in an open
session only. -/
theorem controlWriteSetsEnableAndStrict : Obligations.ControlWriteSetsEnableAndStrict := by
  intro v rest s hp hsrst
  refine ⟨fun hend => ?noEnd, fun hend hopen => ?opened, fun hend hclosed => ?closed⟩
  case noEnd =>
    have hstep := step_writeReg .ctrl hp (writeCtrl_of_no_end hsrst hend _)
    exact hstep
  case opened =>
    have hstep := step_writeReg .ctrl hp
      ((writeCtrl_of_end hsrst hend _).trans (endEvent_of_open ((isOpen_iff _).2 hopen)))
    exact ⟨_, hstep, rfl, rfl, rfl, rfl, rfl, rfl, rfl, rfl⟩
  case closed =>
    have hnot : s.isOpen = false := by
      obtain h | h | h := hclosed <;> simp [State.isOpen, h]
    have hstep := step_writeReg .ctrl hp ((writeCtrl_of_end hsrst hend _).trans (endEvent_of_not_open hnot))
    exact hstep

/-- Settles O43: each write is its register's effect, and for IDLE_LIMIT the timeout's condition (`timedOut_eq_true`) decides
between the end event and nothing. -/
theorem writableRegistersTakeTheirValues : Obligations.WritableRegistersTakeTheirValues := by
  intro v rest s
  refine ⟨fun hp => ?events, fun hp => ?irqEn, fun hp => ?idleLimit⟩
  case events =>
    exact ⟨s.eventBits &&& ~~~(v.extractLsb' 0 3), fun k hk => by simp [hk], step_writeReg .events hp rfl⟩
  case irqEn =>
    exact ⟨v.extractLsb' 0 3, by simp [BitVec.extractLsb'_toNat], step_writeReg .irqEn hp rfl⟩
  case idleLimit =>
    have htimeout : timedOut { beginEvent rest s with idleLimit := v } = true ↔
        (s.session = .receiving ∨ s.session = .aborted) ∧ v ≠ 0#32 ∧ v.toNat ≤ s.idleCnt.toNat :=
      timedOut_eq_true.trans (and_congr_left' (isOpen_iff _))
    refine ⟨fun hkeep => ?kept, fun hv hreached hopen => ?ended⟩
    case kept =>
      have hno : ¬ timedOut { beginEvent rest s with idleLimit := v } = true := by
        rw [htimeout]
        rintro ⟨hopen, hv, hreached⟩
        obtain hzero | hbelow | ⟨hrec, habort⟩ := hkeep
        · exact hv hzero
        · omega
        · exact hopen.elim hrec habort
      have hstep := step_writeReg .idleLimit hp (writeIdleLimit_of_not_timedOut hno)
      exact hstep
    case ended =>
      have hstep := step_writeReg .idleLimit hp
        ((writeIdleLimit_of_timedOut (htimeout.2 ⟨hopen, hv, hreached⟩)).trans (endEvent_of_open ((isOpen_iff _).2 hopen)))
      exact ⟨_, hstep, rfl, rfl, rfl⟩

end Sys2Proof.Proofs
end

section
/-! Proofs about the session: the events that touch the session memories and the output, and the invariants of both. -/

namespace Sys2Proof.Machine

open Sys2Proof.Safety

/-! ### The one induction over steps for what a session holds -/

/-- `s` with the framer, the idle timer, TRUNC, the registers that the host writes, EVENTS and the surroundings of `u`: neither
the session memories nor the output depend on these. -/
def withControl (u s : State) : State :=
  { s with
    field := u.field, pidx := u.pidx, magic := u.magic, cmd := u.cmd, comp := u.comp, size := u.size, csumRx := u.csumRx
    ack := u.ack, stat := u.stat, csumAcc := u.csumAcc, palLatch := u.palLatch, pbuf := u.pbuf
    idleCnt := u.idleCnt, trunc := u.trunc
    en := u.en, strict := u.strict, irqEn := u.irqEn, idleLimit := u.idleLimit, eventBits := u.eventBits
    pending := u.pending, csrAnswer := u.csrAnswer, disconnectLevel := u.disconnectLevel }

/-- A predicate that does not read what `withControl` replaces, and that each operation on the session memories, the output and
the session state keeps. -/
structure KeptBySession (P : State → Prop) : Prop where
  control : ∀ u s, P s → P (withControl u s)
  start : ∀ s, s.session = .idle → P s → P (sessionStart s)
  command : ∀ i s t, s.session = .receiving → i.codeSet = .packet → P s → exec i s = .next t → P t
  fatal : ∀ kind info s, s.session = .receiving → kind ≠ .none → P s → P (raiseFatal kind info s)
  skip : ∀ s, s.session = .receiving → P s → P (raiseSkip s)
  close : ∀ s, s.session = .receiving ∨ s.session = .aborted → P s → P { s with session := .finalizing }
  final : ∀ s, s.session = .finalizing → P s → P (finalizeEvent s)
  pop : ∀ s, s.session = .emitting → P s → P (outPopEvent s)
  reset : ∀ s, P s → P (hardReset s)

namespace KeptBySession

variable {P : State → Prop} (h : KeptBySession P)
include h

theorem of_control {s t : State} (hs : P s) (ht : t = withControl t s) : P t :=
  ht ▸ h.control t s hs

theorem commit {s t : State} (hrec : s.session = .receiving) (hs : P s) (ht : commit s = .next t) : P t := by
  obtain ⟨u, hu, hnext⟩ := onNext_eq_next ht
  cases hnext
  exact h.of_control (h.command _ _ _ hrec (decodeCommand_codeSet _ _ _) hs hu) rfl

/-- Validation: the commit, the abort or the skip (40_framer.md R195 to R198). -/
theorem fieldStatus {b : Byte} {s t : State} (hrec : s.session = .receiving) (hs : P s) (ht : fieldStatus b s = .next t) :
    P t := by
  have hs1 : P { s with stat := b, field := .magic0 } := h.of_control hs rfl
  unfold Machine.fieldStatus at ht
  split_ifs at ht
  · exact h.commit (s := { s with stat := b, field := .magic0 }) hrec hs1 ht
  · cases ht
    exact h.fatal _ _ { s with stat := b, field := .magic0 } hrec (by decide) hs1
  · cases ht
    exact h.skip { s with stat := b, field := .magic0 } hrec hs1

theorem fieldMagic1 (b : Byte) {s : State} (hrec : s.session = .receiving) (hs : P s) : P (fieldMagic1 b s) := by
  simp only [Machine.fieldMagic1]
  split_ifs
  · exact h.of_control hs rfl
  · exact h.fatal _ _ { s with magic := s.magic ||| high16 b } hrec (by decide) (h.of_control hs rfl)

/-- Only the magic check and the validation touch anything but the framer (40_framer.md R185 to R195). -/
theorem fieldRule {b : Byte} {s t : State} (hrec : s.session = .receiving) (hs : P s) (ht : fieldRule b s = .next t) :
    P t := by
  unfold Machine.fieldRule at ht
  cases hfield : s.field <;> simp only [hfield] at ht
  case magic1 =>
    cases ht
    exact h.fieldMagic1 b hrec hs
  case status => exact h.fieldStatus hrec hs ht
  all_goals
    cases ht
    exact h.of_control hs rfl

theorem byteInEvent {b : Byte} {s t : State} (hs : P s) (ht : byteInEvent b s = .next t) : P t := by
  unfold Machine.byteInEvent at ht
  split at ht
  next hidle =>
    cases ht
    exact h.of_control (h.start s hidle hs) rfl
  next hrec =>
    exact h.fieldRule (s := { s with idleCnt := 0#32 }) hrec (h.of_control hs rfl) ht
  next =>
    cases ht
    exact h.of_control hs rfl
  next => exact Host.Outcome.next.inj ht ▸ hs
  next => exact Host.Outcome.next.inj ht ▸ hs

theorem endEvent {s : State} (hs : P s) : P (endEvent s) := by
  cases hopen : s.isOpen with
  | false => rwa [endEvent_of_not_open hopen]
  | true =>
    rw [endEvent_of_open hopen]
    exact h.of_control (h.close s ((isOpen_iff s).1 hopen) hs) rfl

theorem timeoutCheck {s : State} (hs : P s) : P (timeoutCheck s) := by
  rcases timeoutCheck_cases s with ⟨-, he⟩ | ⟨-, he⟩ <;> rw [he]
  · exact h.endEvent hs
  · exact hs

theorem tickEvent {s : State} (hs : P s) : P (tickEvent s) := by
  unfold Machine.tickEvent
  split_ifs
  · exact h.timeoutCheck (h.of_control hs rfl)
  · exact hs

theorem softReset (en strict : Bool) {s : State} (hs : P s) : P (softReset en strict s) :=
  h.of_control (h.reset s hs) rfl

theorem writeCtrl (v : Word) {s : State} (hs : P s) : P (writeCtrl v s) := by
  have hstored : P { s with en := v.getLsbD 0, strict := v.getLsbD 1 } := h.of_control hs rfl
  unfold Machine.writeCtrl
  split_ifs
  · exact h.softReset _ _ hs
  · exact h.endEvent hstored
  · exact hstored

theorem writeReg (r : Reg) (v : Word) {s : State} (hs : P s) : P (writeReg r v s) := by
  cases r with
  | ctrl => exact h.writeCtrl v hs
  | events => exact h.of_control hs rfl
  | irqEn => exact h.of_control hs rfl
  | idleLimit => exact h.timeoutCheck (h.of_control hs rfl)
  | _ => exact hs

theorem csrWriteEvent (offset : Byte) (v : Word) {s : State} (hs : P s) : P (csrWriteEvent offset v s) := by
  have hwrite : P (writeOffset offset v s) := by
    unfold writeOffset
    cases regAt offset with
    | none => exact hs
    | some r => exact h.writeReg r v hs
  unfold Machine.csrWriteEvent
  split_ifs
  · exact h.of_control hwrite rfl
  · exact h.of_control hs rfl

theorem csrReadEvent (offset : Byte) {s : State} (hs : P s) : P (csrReadEvent offset s) := by
  unfold Machine.csrReadEvent
  split_ifs
  · exact h.of_control hs rfl
  · exact h.of_control hs rfl

/-- Every step keeps it (00_scope.md R6). -/
theorem step_keeps {s t : State} (hs : P s) (ht : step s = .next t) : P t :=
  Machine.step_keeps
    (fun _ _ _ _ _ hs => h.of_control hs rfl)
    (fun _ _ _ hs ht => h.byteInEvent hs ht) (fun _ hs => h.tickEvent hs) (fun _ hs => h.endEvent hs)
    (fun offset _ hs => h.csrReadEvent offset hs) (fun offset v _ hs => h.csrWriteEvent offset v hs)
    (fun s hs he => h.pop s he hs) h.reset (fun s hs hf => h.final s hf hs) hs ht

end KeptBySession

/-! ### The Finalize step (45_session.md R350 to R353) -/

/-- What the outcome IMAGE says: no fatal error, rows to emit, and a stream that a chunk can hold. -/
theorem finalOutcome_eq_image {s : State} (h : finalOutcome s = .image) :
    s.fatalKind = .none ∧ 0 < imageHeight s.rowsAcc ∧
      zlibLength s.params (imageHeight s.rowsAcc) (compose s.parts (imageHeight s.rowsAcc)) ≤ Config.chunkLimit := by
  unfold finalOutcome at h
  split_ifs at h with hfatal hparts hheight hsize
  · cases hk : s.fatalKind <;> simp [hk, FatalKind.outcome] at h
  · exact ⟨not_not.1 hfatal, Nat.pos_of_ne_zero hheight, Nat.le_of_not_lt hsize⟩

/-- Everything the Finalize step can do: an end with no image, the size overflow or the emission. -/
theorem finalizeEvent_cases (s : State) :
    (∃ o, finalizeEvent s = finishWithoutImage o s) ∨ finalizeEvent s = sizeOverflow s ∨
    (finalOutcome s = .image ∧ finalizeEvent s = beginEmission s) := by
  unfold finalizeEvent
  split_ifs
  · exact .inl ⟨_, rfl⟩
  · cases ho : finalOutcome s with
    | overflow => exact .inr (.inl rfl)
    | image => exact .inr (.inr ⟨rfl, rfl⟩)
    | _ => exact .inl ⟨_, rfl⟩

/-! ### The session memories agree with their counters (10_state.md R46, R62) -/

theorem memoryAgrees_of_zero {s : State} (hvram : s.vram = []) (hparts : s.parts = []) (hlen : s.vramLen = 0#32)
    (hused : s.storeUsed = 0#32) (hcnt : s.partCnt = 0#32) (hrows : s.rowsAcc = 0#32) : MemoryAgrees s := by
  simp [MemoryAgrees, hvram, hparts, hlen, hused, hcnt, hrows, totalRows]

theorem totalRows_append_single (parts : List ImagePart) (part : ImagePart) :
    totalRows (parts ++ [part]) = totalRows parts + tileRows part.tiles := by
  simp [totalRows]

section
variable {s : State} (h : MemoryAgrees s)
include h

/-- INIT (41_commands.md R221): STORE_USED stays. -/
theorem memoryAgrees_init : MemoryAgrees { s with vram := [], vramLen := 0#32 } := by
  obtain ⟨-, -, hstore, hrest⟩ := h
  exact ⟨rfl, Nat.zero_le _, hstore, hrest⟩

/-- PRINT below MAX_PARTS (41_commands.md R227, R228). -/
theorem memoryAgrees_print (hroom : s.partCnt ≠ s.params.maxParts) (pal : Byte) :
    MemoryAgrees { s with
      parts := s.parts ++ [{ pal := pal, tiles := s.vram }]
      partCnt := s.partCnt + 1#32
      rowsAcc := addRows s.rowsAcc (tileRows s.vram) } := by
  obtain ⟨hlen, hused, hstore, hcnt, hmax, hrows⟩ := h
  have hbelow : s.partCnt.toNat < s.params.maxParts.toNat :=
    Nat.lt_of_le_of_ne hmax fun he => hroom (BitVec.eq_of_toNat_eq he)
  have hcap := s.params.maxParts.isLt
  have hsucc : (s.partCnt + 1#32).toNat = s.partCnt.toNat + 1 :=
    BitVec.toNat_add_of_lt (by simp only [BitVec.toNat_ofNat]; omega)
  refine ⟨hlen, hused, hstore, ?_, ?_, fun hsum => ?_⟩
  · rw [hsucc, hcnt, List.length_append]
    rfl
  · rw [hsucc]
    exact hbelow
  · rw [totalRows_append_single] at hsum ⊢
    have hacc := hrows (by omega)
    rw [addRows_toNat (by rw [hacc]; exact hsum), hacc]

/-- append(d) within the capacity (41_commands.md R222, R226). -/
theorem memoryAgrees_append {d : List Byte} (hfits : s.storeUsed.toNat + d.length ≤ s.params.storeBytes.toNat) :
    MemoryAgrees (appendVram d s) := by
  obtain ⟨hlen, hused, hstore, hrest⟩ := h
  have hcap := s.params.storeBytes.isLt
  have husedNew : (s.storeUsed + BitVec.ofNat 32 d.length).toNat = s.storeUsed.toNat + d.length := by
    rw [BitVec.toNat_add, BitVec.toNat_ofNat]
    omega
  refine ⟨?_, ?_, ?_, hrest⟩
  · simp only [appendVram_vramLen, appendVram_vram, BitVec.toNat_ofNat, List.length_append]
    omega
  · simp only [appendVram_storeUsed, appendVram_vram, husedNew, List.length_append]
    omega
  · simp only [appendVram_storeUsed, appendVram_params, husedNew]
    exact hfits

end

/-! ### The session memories' invariant -/

theorem memoryInv_of_receiving {s : State} (hs : s.session = .receiving) :
    MemoryInv s ↔ s.rle = RleUnit.empty ∧ s.skipAny = (s.skipped != 0#32) ∧ s.fatalKind = .none ∧ MemoryAgrees s := by
  rw [MemoryInv, hs]

theorem memoryInv_of_aborted {s : State} (hs : s.session = .aborted) :
    MemoryInv s ↔ s.rle = RleUnit.empty ∧ s.skipAny = (s.skipped != 0#32) ∧
      s.fatalKind ≠ .none ∧ MemoryEmpty s ∧ MemoryAgrees s := by
  rw [MemoryInv, hs]

theorem memoryInv_of_finalizing {s : State} (hs : s.session = .finalizing) :
    MemoryInv s ↔ s.rle = RleUnit.empty ∧ s.skipAny = (s.skipped != 0#32) ∧
      (s.fatalKind = .none ∨ MemoryEmpty s) ∧ MemoryAgrees s := by
  rw [MemoryInv, hs]

theorem memoryInv_of_emitting {s : State} (hs : s.session = .emitting) :
    MemoryInv s ↔ s.rle = RleUnit.empty ∧ s.skipAny = (s.skipped != 0#32) ∧ s.fatalKind = .none ∧ MemoryEmpty s := by
  rw [MemoryInv, hs]

theorem satInc_ne_zero (w : Word) : satInc w ≠ 0#32 := by
  intro hzero
  have hnat := congrArg BitVec.toNat hzero
  rw [satInc_toNat] at hnat
  simp at hnat

/-- A fatal error empties the memories and zeroes their counters (60_exceptions.md R410). -/
theorem memoryInv_raiseFatal {s : State} {kind : FatalKind} (hkind : kind ≠ .none) (info : Word) (h : MemoryInv s) :
    MemoryInv (raiseFatal kind info s) := by
  obtain ⟨hrle, hskip, -⟩ := h
  exact ⟨hrle, hskip, hkind, ⟨rfl, rfl⟩, memoryAgrees_of_zero rfl rfl rfl rfl rfl rfl⟩

theorem memoryInv_raiseSkip {s : State} (hrec : s.session = .receiving) (h : MemoryInv s) : MemoryInv (raiseSkip s) := by
  obtain ⟨hrle, -, hmemory⟩ := (memoryInv_of_receiving hrec).1 h
  have hskip : true = (satInc s.skipped != 0#32) := by simp [satInc_ne_zero]
  exact (memoryInv_of_receiving (s := raiseSkip s) hrec).2 ⟨hrle, hskip, hmemory⟩

/-- Both FILLs: the append within the capacity, or the abort (41_commands.md R226). -/
theorem memoryInv_storeAppend (d : List Byte) {s : State} (hrec : s.session = .receiving) (h : MemoryInv s) :
    MemoryInv (storeAppend d s) := by
  rcases storeAppend_cases d s with ⟨hfits, he⟩ | ⟨-, he⟩ <;> rw [he]
  · obtain ⟨hrle, hskip, hnone, hagrees⟩ := (memoryInv_of_receiving hrec).1 h
    exact (memoryInv_of_receiving (s := appendVram d s) hrec).2 ⟨hrle, hskip, hnone, memoryAgrees_append hagrees hfits⟩
  · exact memoryInv_raiseFatal (by decide) _ h

/-- Every packet command at its commit (41_commands.md R221 to R230). -/
theorem memoryInv_exec {i : Instr} {s t : State} (hrec : s.session = .receiving) (hi : i.codeSet = .packet) (h : MemoryInv s)
    (ht : exec i s = .next t) : MemoryInv t := by
  obtain ⟨hrle, hskip, hnone, hagrees⟩ := (memoryInv_of_receiving hrec).1 h
  rcases exec_cases ht with ⟨_, _, -, rfl⟩ | ⟨_, _, -, -, rfl⟩ | ⟨_, _, -, hroom, rfl⟩ | ⟨p, -, rfl⟩ | ⟨_, _, u, -, -, rfl⟩ |
    ⟨_, _, -, rfl⟩ | ⟨_, _, _, -, rfl⟩ | ⟨_, hcode, -⟩
  · exact (memoryInv_of_receiving (by exact hrec)).2 ⟨hrle, hskip, hnone, memoryAgrees_init hagrees⟩
  · exact memoryInv_raiseFatal (by decide) _ h
  · exact (memoryInv_of_receiving (by exact hrec)).2 ⟨hrle, hskip, hnone, memoryAgrees_print hagrees hroom _⟩
  · exact memoryInv_storeAppend p hrec h
  · exact memoryInv_storeAppend u.out (s := { s with rleBad := _, rle := _ }) hrec
      ((memoryInv_of_receiving (by exact hrec)).2 ⟨rfl, hskip, hnone, hagrees⟩)
  · exact h
  · exact h
  · cases hi.symm.trans hcode

/-- The Finalize step discards the session data whatever its outcome (45_session.md R354). -/
theorem memoryInv_finalizeEvent {s : State} (h : MemoryInv s) : MemoryInv (finalizeEvent s) := by
  obtain ⟨hrle, hskip, -⟩ := h
  rcases finalizeEvent_cases s with ⟨o, he⟩ | he | ⟨himage, he⟩ <;> rw [he]
  · exact ⟨hrle, hskip, rfl, rfl⟩
  · exact ⟨hrle, hskip, rfl, rfl⟩
  · obtain ⟨hnone, -⟩ := finalOutcome_eq_image himage
    exact ⟨hrle, hskip, hnone, rfl, rfl⟩

theorem memoryInv_close {s : State} (hopen : s.session = .receiving ∨ s.session = .aborted) (h : MemoryInv s) :
    MemoryInv { s with session := .finalizing } := by
  obtain hrec | hab := hopen
  · obtain ⟨hrle, hskip, hnone, hagrees⟩ := (memoryInv_of_receiving hrec).1 h
    exact ⟨hrle, hskip, .inl hnone, hagrees⟩
  · obtain ⟨hrle, hskip, -, hempty, hagrees⟩ := (memoryInv_of_aborted hab).1 h
    exact ⟨hrle, hskip, .inr hempty, hagrees⟩

theorem memoryInv_outPopEvent {s : State} (hemit : s.session = .emitting) (h : MemoryInv s) : MemoryInv (outPopEvent s) := by
  obtain ⟨hrle, hskip, -, hempty⟩ := (memoryInv_of_emitting hemit).1 h
  unfold outPopEvent
  split_ifs
  · exact ⟨hrle, hskip, hempty⟩
  · exact h

theorem memoryInv_keptBySession : KeptBySession MemoryInv where
  control _ _ h := h
  start s hidle h := by
    obtain ⟨hrle, -⟩ := h
    exact ⟨hrle, rfl, rfl, memoryAgrees_of_zero rfl rfl rfl rfl rfl rfl⟩
  command _ _ _ hrec hi h ht := memoryInv_exec hrec hi h ht
  fatal _ info _ _ hkind h := memoryInv_raiseFatal hkind info h
  skip _ hrec h := memoryInv_raiseSkip hrec h
  close _ hopen h := memoryInv_close hopen h
  final _ _ h := memoryInv_finalizeEvent h
  pop _ hemit h := memoryInv_outPopEvent hemit h
  reset _ _ := ⟨rfl, rfl, rfl, rfl⟩

end Sys2Proof.Machine

namespace Sys2Proof.Proofs

open Sys2Proof.Machine

/-- Settles O56: each operation on the session memories keeps the invariant (`memoryInv_keptBySession`), and nothing else in a
step touches what it reads (`KeptBySession.step_keeps`). -/
theorem stepKeepsTheMemoryInvariant : Obligations.StepKeepsTheMemoryInvariant :=
  fun _ _ hs ht => memoryInv_keptBySession.step_keeps hs ht

end Sys2Proof.Proofs
end

section
/-! Proofs about the output: the size of a raster and of its PNG, and the output's invariant. -/

namespace Sys2Proof.Machine

open Sys2Proof.Safety

/-! ### The raster's size (43_compositor.md R262 to R269) -/

theorem length_flatMap_of_const {α β : Type} {f : α → List β} {n : Nat} {l : List α} (h : ∀ a ∈ l, (f a).length = n) :
    (l.flatMap f).length = n * l.length := by
  rw [List.length_flatMap, List.map_congr_left h, List.map_const', List.sum_replicate, smul_eq_mul, Nat.mul_comm]

theorem length_stripRow (part : ImagePart) (g t : Nat) : (stripRow part g t).length = Config.width := by
  rw [stripRow, length_flatMap_of_const (n := Config.tileSide) fun _ _ => by simp, List.length_range]
  rfl

theorem length_partRows (part : ImagePart) : (partRows part).length = 8 * stripCount part.tiles := by
  rw [partRows, length_flatMap_of_const (n := Config.tileSide) fun _ _ => by simp, List.length_range]
  rfl

/-- Every cell of the raster is there: no row is shorter than the image's width. -/
theorem length_of_mem_compose {parts : List ImagePart} {h : Nat} {row : List Stored} (hrow : row ∈ compose parts h) :
    row.length = Config.width := by
  obtain ⟨part, -, hpart⟩ := List.mem_flatMap.1 (List.mem_of_mem_take hrow)
  obtain ⟨g, -, hstrip⟩ := List.mem_flatMap.1 hpart
  obtain ⟨t, -, rfl⟩ := List.mem_map.1 hstrip
  exact length_stripRow part g t

/-- The strips of all parts, stacked, are a whole number of strips and no fewer rows than the parts' sum. -/
theorem length_flatMap_partRows (parts : List ImagePart) :
    ∃ n, (parts.flatMap partRows).length = 8 * n ∧ totalRows parts ≤ 8 * n := by
  induction parts with
  | nil => exact ⟨0, rfl, Nat.le_refl _⟩
  | cons part parts ih =>
    obtain ⟨n, hlength, htotal⟩ := ih
    have hpart : tileRows part.tiles ≤ 8 * stripCount part.tiles := by
      simp only [tileRows, stripCount, Config.rowBytes, Config.stripBytes]
      omega
    refine ⟨stripCount part.tiles + n, ?_, ?_⟩
    · rw [List.flatMap_cons, List.length_append, length_partRows, hlength]
      omega
    · have hcons : totalRows (part :: parts) = tileRows part.tiles + totalRows parts := by simp [totalRows]
      omega

/-- Coverage (43_compositor.md R269), wherever ROWS_ACC is at most the sum over the parts. -/
theorem length_compose {parts : List ImagePart} {rowsAcc : Word} (h : rowsAcc.toNat ≤ totalRows parts) :
    (compose parts (imageHeight rowsAcc)).length = imageHeight rowsAcc := by
  obtain ⟨n, hlength, htotal⟩ := length_flatMap_partRows parts
  rw [compose, List.length_take, hlength, imageHeight, roundup8]
  omega

/-- With the memories in agreement ROWS_ACC is the sum over the parts, or the sum does not fit in it. -/
theorem rowsAcc_le_totalRows {s : State} (h : MemoryAgrees s) : s.rowsAcc.toNat ≤ totalRows s.parts := by
  obtain ⟨-, -, -, -, -, hrows⟩ := h
  have hlt := s.rowsAcc.isLt
  by_cases hfits : totalRows s.parts < 4294967296
  · exact (hrows hfits).le
  · omega

/-! ### The PNG's size (44_png.md R299, R309, R310) -/

theorem length_scanlines {rows : List (List Stored)} (h : ∀ row ∈ rows, row.length = Config.width) :
    (scanlines rows).length = (Config.width + 1) * rows.length :=
  length_flatMap_of_const fun row hrow => by simp [h row hrow]

/-- The last block of some data takes what full blocks leave. -/
theorem blockCount_of_pos {blockMax n : Nat} (hb : 0 < blockMax) (hn : 0 < n) :
    blockCount blockMax n = 1 + blockCount blockMax (n - blockMax) := by
  unfold blockCount
  rcases Nat.le_total n blockMax with hle | hge
  · rw [Nat.sub_eq_zero_of_le hle, Nat.zero_add, Nat.div_eq_of_lt (a := blockMax - 1) (by omega)]
    exact Nat.div_eq_of_lt_le (by omega) (by omega)
  · rw [show n + (blockMax - 1) = n - blockMax + (blockMax - 1) + blockMax by omega, Nat.add_div_right _ hb, Nat.add_comm]

theorem length_storedBlock (final : Bool) (data : List Byte) : (storedBlock final data).length = 5 + data.length := by
  simp only [storedBlock, List.length_append, List.length_cons, List.length_nil]

/-- Five bytes per stored block (44_png.md R297, R299). -/
theorem length_storedBlocks {blockMax : Nat} (hb : 0 < blockMax) (fuel : Nat) (data : List Byte) (h : data.length ≤ fuel) :
    (storedBlocks blockMax fuel data).length = 5 * blockCount blockMax data.length + data.length := by
  have hzero : blockCount blockMax 0 = 0 := Nat.div_eq_of_lt (by omega)
  induction fuel generalizing data with
  | zero =>
    rw [List.length_eq_zero_iff.1 (Nat.le_zero.1 h)]
    simp [storedBlocks, hzero]
  | succ fuel ih =>
    rw [storedBlocks]
    split_ifs with hempty
    · simp [List.isEmpty_iff.1 hempty, hzero]
    · have hpos : 0 < data.length := List.length_pos_iff.2 (by simpa using hempty)
      have hrest := ih (data.drop blockMax) (by rw [List.length_drop]; omega)
      rw [List.length_drop] at hrest
      rw [List.length_append, length_storedBlock, hrest, List.length_take, blockCount_of_pos hb hpos]
      omega

theorem length_be32 (w : Word) : (be32 w).length = 4 := rfl

theorem length_zlibStored {blockMax : Nat} (hb : 0 < blockMax) (r : List Byte) :
    (zlibStored blockMax r).length = 2 + 5 * blockCount blockMax r.length + r.length + 4 := by
  simp only [zlibStored, List.length_append, length_be32, length_storedBlocks hb r.length r le_rfl, List.length_cons,
    List.length_nil]
  omega

/-- The zlib length of 45_session.md R350 is the length of the IDAT data (44_png.md R299). -/
theorem length_zlibStream {p : Config.Params} (hp : p.storedBlockMax ≠ 0#16) {rows : List (List Stored)}
    (hrows : ∀ row ∈ rows, row.length = Config.width) :
    (zlibStream p (scanlines rows)).length = zlibLength p rows.length rows := by
  unfold zlibStream zlibLength
  cases p.deflate with
  | stored =>
    have hb : 0 < p.storedBlockMax.toNat := Nat.pos_of_ne_zero fun h0 => hp (BitVec.eq_of_toNat_eq h0)
    simp only [length_zlibStored hb, length_scanlines hrows]
  | other which => rfl

theorem length_chunk {type : List Byte} (htype : type.length = 4) (data : List Byte) :
    (chunk type data).length = 12 + data.length := by
  simp only [chunk, List.length_append, length_be32, htype]
  omega

/-- A PNG is 81 bytes longer than its IDAT data (44_png.md R310). -/
theorem length_pngBytes (p : Config.Params) (h : Nat) (rows : List (List Stored)) :
    (pngBytes p h rows).length = 81 + (zlibStream p (scanlines rows)).length := by
  have hihdr : (ihdrData h).length = 13 := rfl
  have hplte : plteData.length = 12 := rfl
  have hsignature : pngSignature.length = 8 := rfl
  have hiend : (chunk typeIend []).length = 12 := length_chunk rfl []
  simp only [pngBytes, List.length_append, hsignature, hiend, length_chunk (type := typeIhdr) rfl,
    length_chunk (type := typePlte) rfl, length_chunk (type := typeIdat) rfl, hihdr, hplte]
  omega

/-! ### The output's invariant (10_state.md R42, R43) -/

/-- What a session holds before its Finalize step: nothing for the host, and the results of session start. -/
def NothingMade (s : State) : Prop := OutputEmpty s ∧ s.result = 0#32 ∧ s.imgHeight = 0#32 ∧ s.pngLen = 0#32

theorem outputInv_of_idle {s : State} (hs : s.session = .idle) : OutputInv s ↔ OutputEmpty s := by
  rw [OutputInv, hs]

theorem outputInv_of_emitting {s : State} (hs : s.session = .emitting) : OutputInv s ↔ OutputHeld s := by
  rw [OutputInv, hs]

theorem outputInv_of_session {s : State} (hs : s.session = .receiving ∨ s.session = .aborted ∨ s.session = .finalizing) :
    OutputInv s ↔ NothingMade s := by
  obtain hs | hs | hs := hs <;> rw [OutputInv, hs] <;> rfl

/-- No packet command and no code touches the output or its registers; the session goes on or is aborted. -/
theorem exec_keeps_output {i : Instr} {s t : State} (ht : exec i s = .next t) :
    t.params = s.params ∧ (t.session = s.session ∨ t.session = .aborted) ∧ (NothingMade s → NothingMade t) := by
  have hstore (d : List Byte) (u : State) : (storeAppend d u).params = u.params ∧
      ((storeAppend d u).session = u.session ∨ (storeAppend d u).session = .aborted) ∧
      (NothingMade u → NothingMade (storeAppend d u)) := by
    rcases storeAppend_cases d u with ⟨-, he⟩ | ⟨-, he⟩ <;> rw [he]
    · exact ⟨rfl, .inl rfl, id⟩
    · exact ⟨rfl, .inr rfl, id⟩
  rcases exec_cases ht with ⟨_, _, -, rfl⟩ | ⟨_, _, -, -, rfl⟩ | ⟨_, _, -, -, rfl⟩ | ⟨p, -, rfl⟩ | ⟨_, _, u, -, -, rfl⟩ |
    ⟨_, _, -, rfl⟩ | ⟨_, _, _, -, rfl⟩ | ⟨_, -, rfl⟩
  · exact ⟨rfl, .inl rfl, id⟩
  · exact ⟨rfl, .inr rfl, id⟩
  · exact ⟨rfl, .inl rfl, id⟩
  · exact hstore p s
  · exact hstore u.out { s with rleBad := _, rle := _ }
  · exact ⟨rfl, .inl rfl, id⟩
  · exact ⟨rfl, .inl rfl, id⟩
  · exact ⟨rfl, .inl rfl, id⟩

/-- The emission begins with the whole PNG still to take: its length fits in PNG_LEN, since a chunk holds its IDAT data. -/
theorem outputHeld_beginEmission {s : State} (hp : s.params.storedBlockMax ≠ 0#16) (hagrees : MemoryAgrees s)
    (himage : finalOutcome s = .image) : OutputHeld (beginEmission s) := by
  obtain ⟨-, hheight, hsize⟩ := finalOutcome_eq_image himage
  have hcover := length_compose (rowsAcc_le_totalRows hagrees)
  have hrows : ∀ row ∈ compose s.parts (imageHeight s.rowsAcc), row.length = Config.width := fun _ => length_of_mem_compose
  have hlength : (pngBytes s.params (imageHeight s.rowsAcc) (compose s.parts (imageHeight s.rowsAcc))).length =
      81 + zlibLength s.params (imageHeight s.rowsAcc) (compose s.parts (imageHeight s.rowsAcc)) := by
    rw [length_pngBytes, length_zlibStream hp hrows, hcover]
  have hpngLen : (beginEmission s).pngLen.toNat = (beginEmission s).outbuf.length := by
    simp only [beginEmission_pngLen, beginEmission_outbuf, BitVec.toNat_ofNat, hlength]
    simp only [Config.chunkLimit] at hsize
    omega
  refine ⟨hpngLen, ?_, _, _, rfl, hcover, hheight, hrows, rfl, rfl⟩
  rw [hpngLen, beginEmission_outbuf, hlength, beginEmission_outIdx]
  exact Nat.add_pos_left (by decide) _

/-- A byte taken: the last one ends the emission, any other leaves one to take (44_png.md R322). -/
theorem outputInv_outPopEvent {s : State} (hemit : s.session = .emitting) (h : OutputInv s) : OutputInv (outPopEvent s) := by
  obtain ⟨hlen, hidx, himage⟩ := (outputInv_of_emitting hemit).1 h
  unfold outPopEvent
  split_ifs with hlast
  · exact (outputInv_of_idle rfl).2 ⟨rfl, rfl, rfl⟩
  · have hlt := s.pngLen.isLt
    have hsucc : (s.outIdx + 1#32).toNat = s.outIdx.toNat + 1 :=
      BitVec.toNat_add_of_lt (by simp only [BitVec.toNat_ofNat]; omega)
    have hnext : s.outIdx.toNat + 1 < s.pngLen.toNat :=
      Nat.lt_of_le_of_ne hidx fun he => hlast (BitVec.eq_of_toNat_eq (hsucc.trans he))
    exact (outputInv_of_emitting (s := { s with outIdx := s.outIdx + 1#32 }) hemit).2
      ⟨hlen, hsucc.trans_lt hnext, himage⟩

theorem outputInv_finalizeEvent {s : State} (hp : s.params.inRange = true) (hfin : s.session = .finalizing)
    (hm : MemoryInv s) (h : OutputInv s) : OutputInv (finalizeEvent s) := by
  obtain ⟨hempty, -⟩ := (outputInv_of_session (.inr (.inr hfin))).1 h
  obtain ⟨-, -, -, hagrees⟩ := (memoryInv_of_finalizing hfin).1 hm
  rcases finalizeEvent_cases s with ⟨o, he⟩ | he | ⟨himage, he⟩ <;> rw [he]
  · exact (outputInv_of_idle rfl).2 hempty
  · exact (outputInv_of_idle rfl).2 hempty
  · have hblock : s.params.storedBlockMax ≠ 0#16 := by
      simp only [Config.Params.inRange, Bool.and_eq_true, bne_iff_ne] at hp
      exact hp.2
    exact (outputInv_of_emitting rfl).2 (outputHeld_beginEmission hblock hagrees himage)

theorem finalizeEvent_params (s : State) : (finalizeEvent s).params = s.params := by
  rcases finalizeEvent_cases s with ⟨o, he⟩ | he | ⟨-, he⟩ <;> rw [he] <;> rfl

theorem outPopEvent_params (s : State) : (outPopEvent s).params = s.params := by
  rw [outPopEvent, apply_ite State.params]
  exact ite_self _

/-- What the output's invariant rests on: parameters in their ranges, and the session memories' invariant. -/
def SessionInv (s : State) : Prop := s.params.inRange = true ∧ MemoryInv s ∧ OutputInv s

theorem sessionInv_keptBySession : KeptBySession SessionInv where
  control _ _ h := h
  start s hidle := by
    rintro ⟨hp, hm, ho⟩
    exact ⟨hp, memoryInv_keptBySession.start s hidle hm, (outputInv_of_idle hidle).1 ho, rfl, rfl, rfl⟩
  command i s t hrec hi := by
    rintro ⟨hp, hm, ho⟩ ht
    obtain ⟨hparams, hsession, hnothing⟩ := exec_keeps_output ht
    have hopen : t.session = .receiving ∨ t.session = .aborted ∨ t.session = .finalizing :=
      hsession.imp (·.trans hrec) .inl
    exact ⟨hparams ▸ hp, memoryInv_exec hrec hi hm ht,
      (outputInv_of_session hopen).2 (hnothing ((outputInv_of_session (.inl hrec)).1 ho))⟩
  fatal kind info s hrec hkind := by
    rintro ⟨hp, hm, ho⟩
    exact ⟨hp, memoryInv_raiseFatal hkind info hm,
      (outputInv_of_session (.inr (.inl rfl))).2 ((outputInv_of_session (.inl hrec)).1 ho)⟩
  skip s hrec := by
    rintro ⟨hp, hm, ho⟩
    exact ⟨hp, memoryInv_raiseSkip hrec hm, ho⟩
  close s hopen := by
    rintro ⟨hp, hm, ho⟩
    exact ⟨hp, memoryInv_close hopen hm,
      (outputInv_of_session (.inr (.inr rfl))).2 ((outputInv_of_session (hopen.imp_right .inl)).1 ho)⟩
  final s hfin := by
    rintro ⟨hp, hm, ho⟩
    exact ⟨(finalizeEvent_params s).symm ▸ hp, memoryInv_finalizeEvent hm, outputInv_finalizeEvent hp hfin hm ho⟩
  pop s hemit := by
    rintro ⟨hp, hm, ho⟩
    exact ⟨(outPopEvent_params s).symm ▸ hp, memoryInv_outPopEvent hemit hm, outputInv_outPopEvent hemit ho⟩
  reset s := by
    rintro ⟨hp, hm, -⟩
    exact ⟨hp, memoryInv_keptBySession.reset s hm, (outputInv_of_idle rfl).2 ⟨rfl, rfl, rfl⟩⟩

end Sys2Proof.Machine

namespace Sys2Proof.Proofs

open Sys2Proof.Machine

/-- Settles O57: the Finalize step makes a raster of as many rows as its height and a PNG that PNG_LEN counts
(`outputHeld_beginEmission`), OutPop takes its bytes, and no other operation touches the output. -/
theorem stepKeepsTheOutputInvariant : Obligations.StepKeepsTheOutputInvariant := by
  intro s t hp hm ho ht
  obtain ⟨-, -, hout⟩ := sessionInv_keptBySession.step_keeps ⟨hp, hm, ho⟩ ht
  exact hout

end Sys2Proof.Proofs
end

section
/-! Proofs about the host's side of an instance: what a register read answers, and how the host takes the PNG byte by byte. -/

namespace Sys2Proof.Machine

open Sys2Proof.Safety

/-! ### Register reads (20_memory.md R108, R110) -/

/-- No register reads as the pending events or the port's last answer. -/
theorem readOffset_beginEvent (offset : Byte) (rest : List Event) (s : State) :
    readOffset offset (beginEvent rest s) = readOffset offset s := by
  unfold readOffset
  cases regAt offset with
  | none => rfl
  | some r => cases r <;> rfl

/-- A register read changes the port's answer only. -/
theorem csrReadEvent_eq (offset : Byte) (s : State) :
    csrReadEvent offset s =
      { s with csrAnswer := if aligned offset then .readData (readOffset offset s) else .readError } := by
  unfold csrReadEvent
  split_ifs <;> rfl

/-- The step on a pending register read. -/
theorem step_csrRead {offset : Byte} {rest : List Event} {s : State} (hp : s.pending = .csrRead offset :: rest) :
    step s = .next { s with
      pending := rest, csrAnswer := if aligned offset then .readData (readOffset offset s) else .readError } := by
  rw [step_head hp rfl, applyEvent, csrReadEvent_eq, readOffset_beginEvent]
  rfl

/-! ### OutPop (44_png.md R321 to R323, 45_session.md R355) -/

theorem outValid_iff (s : State) : s.outValid = true ↔ s.session = .emitting := by
  simp [State.outValid]

/-- While EMITTING the byte at OUT_IDX is offered (44_png.md R321). -/
theorem outData_of_emitting {s : State} (hemit : s.session = .emitting) (hidx : s.outIdx.toNat < s.outbuf.length) :
    some s.outData = s.outbuf[s.outIdx.toNat]? := by
  simp [State.outData, (outValid_iff s).2 hemit, hidx]

/-- out_last marks the byte after which PNG_LEN bytes are taken (44_png.md R323). -/
theorem outLast_iff_of_emitting {s : State} (hemit : s.session = .emitting) :
    s.outLast = true ↔ s.outIdx.toNat + 1 = s.pngLen.toNat := by
  simp [State.outLast, (outValid_iff s).2 hemit]

/-- OUT_IDX does not wrap below PNG_LEN. -/
theorem toNat_add_one_of_lt {w limit : Word} (h : w.toNat < limit.toNat) : (w + 1#32).toNat = w.toNat + 1 :=
  have hlimit := limit.isLt
  BitVec.toNat_add_of_lt (by simp only [BitVec.toNat_ofNat]; omega)

/-- The step on a pending OutPop while EMITTING. -/
theorem step_outPop {rest : List Event} {s : State} (hemit : s.session = .emitting) (hp : s.pending = .outPop :: rest) :
    step s = .next (outPopEvent (beginEvent rest s)) :=
  step_head hp ((outValid_iff s).2 hemit)

/-- An OutPop that leaves a byte to take moves OUT_IDX on (44_png.md R322). -/
theorem step_outPop_of_more {rest : List Event} {s : State} (hemit : s.session = .emitting)
    (hmore : s.outIdx.toNat + 1 < s.pngLen.toNat) (hp : s.pending = .outPop :: rest) :
    step s = .next { s with pending := rest, csrAnswer := .quiet, outIdx := s.outIdx + 1#32 } := by
  have hsucc := toNat_add_one_of_lt (Nat.lt_of_succ_lt hmore)
  have hne : s.outIdx + 1#32 ≠ s.pngLen := fun heq => hmore.ne (hsucc.symm.trans (congrArg BitVec.toNat heq))
  exact (step_outPop hemit hp).trans (congrArg _ (if_neg hne))

/-- The OutPop of the last byte ends the emission (45_session.md R355). -/
theorem step_outPop_of_last {rest : List Event} {s : State} (hemit : s.session = .emitting)
    (hlast : s.outIdx.toNat + 1 = s.pngLen.toNat) (hp : s.pending = .outPop :: rest) :
    step s = .next (endEmission (beginEvent rest s)) := by
  have hsucc := toNat_add_one_of_lt (Nat.lt_of_succ_le hlast.le)
  have heq : s.outIdx + 1#32 = s.pngLen := BitVec.eq_of_toNat_eq (hsucc.trans hlast)
  exact (step_outPop hemit hp).trans (congrArg _ (if_pos heq))

/-- As many OutPops as leave a byte to take move OUT_IDX on by their number and change nothing else that the spec
names (44_png.md R322; log entries 1 and 12). -/
theorem run_outPops {k : Nat} {rest : List Event} {s : State} (hemit : s.session = .emitting)
    (hmore : s.outIdx.toNat + k < s.pngLen.toNat) (hp : s.pending = List.replicate k Event.outPop ++ rest) :
    ∃ t, run k s = .next t ∧ t.outIdx.toNat = s.outIdx.toNat + k ∧
      t = { s with pending := rest, csrAnswer := t.csrAnswer, outIdx := t.outIdx } := by
  induction k generalizing s with
  | zero =>
    obtain rfl : s.pending = rest := hp
    exact ⟨s, rfl, rfl, rfl⟩
  | succ k ih =>
    rw [List.replicate_succ, List.cons_append] at hp
    have hsucc := toNat_add_one_of_lt (w := s.outIdx) (limit := s.pngLen) (by omega)
    obtain ⟨t, hrun, hidx, ht⟩ := ih
      (s := { s with pending := List.replicate k Event.outPop ++ rest, csrAnswer := .quiet, outIdx := s.outIdx + 1#32 })
      hemit (by simp only [hsucc]; omega) rfl
    refine ⟨t, ?_, by simp only [hsucc] at hidx; omega, ht⟩
    rw [run_succ, step_outPop_of_more hemit (by omega) hp, onNext_next, hrun]

end Sys2Proof.Machine

namespace Sys2Proof.Proofs

open Sys2Proof.Machine Sys2Proof.Safety

/-- Settles O39: the read replaces the port's answer and nothing else, and whether the offset is aligned says by which. -/
theorem registerReadChangesNothing : Obligations.RegisterReadChangesNothing := by
  intro offset rest s hp
  refine ⟨_, step_csrRead hp, rfl, fun h => ?aligned, fun h => ?misaligned⟩
  case aligned =>
    simp only [if_pos ((aligned_iff offset).2 h)]
    exact ⟨rfl, rfl, rfl⟩
  case misaligned =>
    simp only [if_neg (mt (aligned_iff offset).1 h)]
    exact ⟨rfl, rfl, rfl⟩

/-- Settles O35: the first `k` OutPops lead to OUT_IDX + `k` (`run_outPops`), where the byte there is offered; the step after
`n - 1` of them takes the last byte. -/
theorem outputStreamDeliversThePngInOrder : Obligations.OutputStreamDeliversThePngInOrder := by
  intro rest s n hemit hlen hleft hpos hp
  have hsplit (k : Nat) (hk : k < n) :
      s.pending = List.replicate k Event.outPop ++ (List.replicate (n - k) Event.outPop ++ rest) := by
    rw [hp, ← List.append_assoc, List.replicate_append_replicate, Nat.add_sub_cancel' hk.le]
  refine ⟨fun k hk => ?offered, ?ended⟩
  case offered =>
    obtain ⟨t, hrun, hidx, ht⟩ := run_outPops hemit (by omega) (hsplit k hk)
    have htemit : t.session = .emitting := by rw [ht]; exact hemit
    have htbuf : t.outbuf = s.outbuf := by rw [ht]
    have htlen : t.pngLen = s.pngLen := by rw [ht]
    refine ⟨t, hrun, (outValid_iff t).2 htemit, ?_, ?_⟩
    · rw [outData_of_emitting htemit (by rw [htbuf]; omega), htbuf, hidx]
    · rw [outLast_iff_of_emitting htemit, htlen, hidx]
      omega
  case ended =>
    obtain ⟨m, rfl⟩ : ∃ m, n = m + 1 := ⟨n - 1, by omega⟩
    have hlast := hsplit m (Nat.lt_succ_self m)
    rw [Nat.add_sub_cancel_left] at hlast
    obtain ⟨t, hrun, hidx, ht⟩ := run_outPops hemit (by omega) hlast
    have htlen : t.pngLen = s.pngLen := by rw [ht]
    have htbits : t.eventBits = s.eventBits := by rw [ht]
    have htstep : step t = .next (endEmission (beginEvent rest t)) :=
      step_outPop_of_last (by rw [ht]; exact hemit) (by rw [htlen, hidx]; omega) (by rw [ht]; rfl)
    refine ⟨endEmission (beginEvent rest t), ?_, rfl, rfl, rfl, rfl, rfl, rfl, ?_, rfl⟩
    · rw [run_add, hrun, onNext_next, run_succ, htstep, onNext_next, run_zero]
    · rw [endEmission_eventBits, beginEvent_eventBits, htbits, BitVec.or_assoc]
      rfl

end Sys2Proof.Proofs
end

section
/-! Proofs about the encoding: packets and RLE codes to bytes and back, and what of a packet's bytes the machine ignores. -/

namespace Sys2Proof.Machine

open Sys2Proof.Safety

/-! ### RLE codes to bytes and back (30_encoding.md R140 to R142) -/

theorem runByte_toNat (n : BitVec 7) : (1#1 ++ n : Byte).toNat = 128 + n.toNat := by
  have := n.isLt
  rw [BitVec.toNat_append, ← Nat.shiftLeft_add_eq_or_of_lt this]
  rfl

theorem litByte_toNat (n : BitVec 7) : (0#1 ++ n : Byte).toNat = n.toNat := by
  rw [BitVec.toNat_append]
  simp

/-- The control byte of a RUN is bit 7 set before its low bits. -/
theorem controlByte_of_run {c : Byte} (hc : 128 ≤ c.toNat) : 1#1 ++ c.extractLsb' 0 7 = c := by
  have := c.isLt
  exact BitVec.eq_of_toNat_eq (by rw [runByte_toNat, controlByte_low_toNat]; omega)

/-- The control byte of a LIT is bit 7 clear before its low bits. -/
theorem controlByte_of_lit {c : Byte} (hc : ¬ 128 ≤ c.toNat) : 0#1 ++ c.extractLsb' 0 7 = c :=
  BitVec.eq_of_toNat_eq (by rw [litByte_toNat, controlByte_low_toNat]; omega)

/-- c[6:0], as the bits of a number with the same value modulo 128. -/
theorem controlByte_low_eq {c : Byte} {k : Nat} (h : c.toNat % 128 = k % 128) : c.extractLsb' 0 7 = BitVec.ofNat 7 k :=
  BitVec.eq_of_toNat_eq (by rw [controlByte_low_toNat, h, BitVec.toNat_ofNat])

theorem runByte_low (n : BitVec 7) : (1#1 ++ n : Byte).extractLsb' 0 7 = n := by
  have := n.isLt
  exact BitVec.eq_of_toNat_eq (by rw [controlByte_low_toNat, runByte_toNat]; omega)

theorem litByte_low (n : BitVec 7) : (0#1 ++ n : Byte).extractLsb' 0 7 = n := by
  have := n.isLt
  exact BitVec.eq_of_toNat_eq (by rw [controlByte_low_toNat, litByte_toNat]; omega)

/-- A control byte and what follows it are the next code and what follows that. -/
theorem decodeRle_cons (c : Byte) (rest : List Byte) :
    decodeRle (c :: rest) = .ok (decodeCode c rest).1 (decodeCode c rest).2 := rfl

/-- The bytes of a RUN decode to it: with its value byte before any bytes, without one at the payload's end. -/
theorem decodeRle_runBytes {n : BitVec 7} {v : Option Byte} {rest : List Byte} (h : v.isSome = true ∨ rest = []) :
    decodeRle ((1#1 ++ n) :: v.toList ++ rest) = .ok (.rleRun n v) rest := by
  have hrun : 128 ≤ (1#1 ++ n : Byte).toNat := by rw [runByte_toNat]; omega
  cases v with
  | some b =>
    exact (decodeRle_cons _ (b :: rest)).trans (by rw [decodeCode_run_cons hrun, runByte_low])
  | none =>
    obtain rfl : rest = [] := h.resolve_left (by simp)
    exact (decodeRle_cons _ []).trans (by rw [decodeCode_run_nil hrun, runByte_low])

/-- The bytes of a LIT decode to it: the whole span before any bytes, a cut one at the payload's end. -/
theorem decodeRle_litBytes {n : BitVec 7} {bytes rest : List Byte} (hlen : bytes.length ≤ n.toNat + 1)
    (h : bytes.length = n.toNat + 1 ∨ rest = []) :
    decodeRle ((0#1 ++ n) :: bytes ++ rest) = .ok (.rleLit n bytes) rest := by
  have hlit : ¬ 128 ≤ (0#1 ++ n : Byte).toNat := by rw [litByte_toNat]; omega
  rw [List.cons_append, decodeRle_cons, decodeCode_lit hlit, litByte_low, litByte_toNat]
  obtain hwhole | rfl := h
  · rw [List.take_left' hwhole, List.drop_left' hwhole]
  · rw [List.append_nil, List.take_of_length_le hlen, List.drop_of_length_le hlen]

/-- Decoding the bytes of a well-formed RLE code, whole or at the payload's end. -/
theorem decodeRle_encodeWith {i : Instr} (hset : i.codeSet = .rle) (hwf : i.wellFormed = true) {rest : List Byte}
    (h : i.complete = true ∨ rest = []) (ack stat : Byte) : decodeRle (encodeWith ack stat i ++ rest) = .ok i rest := by
  cases i with
  | rleRun n v => exact decodeRle_runBytes h
  | rleLit n bytes => exact decodeRle_litBytes (of_decide_eq_true hwf) (h.imp_left of_decide_eq_true)
  | _ => cases hset

/-- What a control byte and the bytes after it decode to is a well-formed code, cut only where nothing follows, and its bytes are
those. -/
theorem decodeCode_spec (c : Byte) (bytes : List Byte) :
    ∃ i rest, decodeCode c bytes = (i, rest) ∧ i.codeSet = .rle ∧ i.wellFormed = true ∧ (i.complete = true ∨ rest = []) ∧
      ∀ ack stat : Byte, c :: bytes = encodeWith ack stat i ++ rest := by
  by_cases hc : 128 ≤ c.toNat
  · have hbyte := controlByte_of_run hc
    cases bytes with
    | nil => exact ⟨_, _, decodeCode_run_nil hc, rfl, rfl, .inr rfl, fun _ _ => by simp [encodeWith, hbyte]⟩
    | cons v tail => exact ⟨_, _, decodeCode_run_cons hc v tail, rfl, rfl, .inl rfl, fun _ _ => by simp [encodeWith, hbyte]⟩
  · have hbyte := controlByte_of_lit hc
    have hn : (c.extractLsb' 0 7).toNat = c.toNat := by rw [controlByte_low_toNat]; omega
    refine ⟨_, _, decodeCode_lit hc bytes, rfl, ?wf, ?whole, fun _ _ => by simp [encodeWith, hbyte]⟩
    case wf => simp [Instr.wellFormed, hn]
    case whole =>
      simp only [Instr.complete, hn, decide_eq_true_eq, List.length_take, List.drop_eq_nil_iff]
      omega

/-! ### Packets to bytes and back (30_encoding.md R130 to R138, R154) -/

/-- The magic as the bytes 88 33 (R132). -/
theorem le16_eq_magic_iff (m0 m1 : Byte) : le16 m0 m1 = Config.magic ↔ m0 = lo8 Config.magic ∧ m1 = hi8 Config.magic := by
  constructor
  · intro h
    rw [← h]
    exact ⟨(lo8_le16 m0 m1).symm, (hi8_le16 m0 m1).symm⟩
  · rintro ⟨rfl, rfl⟩
    exact le16_lo8_hi8 _

theorem decodePacket_of_badMagic {m0 m1 : Byte} (h : le16 m0 m1 ≠ Config.magic) (tail : List Byte) :
    decodePacket (m0 :: m1 :: tail) = .reject (.badMagic (le16 m0 m1)) :=
  if_neg h

/-- SIZE of a payload that fits it, as a number (R135). -/
theorem size_toNat {payload : List Byte} (h : payloadFits payload = true) :
    (BitVec.ofNat 16 payload.length).toNat = payload.length := by
  rw [BitVec.toNat_ofNat, Nat.mod_eq_of_lt (of_decide_eq_true h)]

/-- Decoding a packet with a right checksum gives its command, whatever ACK and STATUS are (R137, R138). -/
theorem decodePacket_packetBytes (cmd comp : Byte) {payload : List Byte} (h : payloadFits payload = true) (ack stat : Byte)
    (rest : List Byte) :
    decodePacket (packetBytes cmd comp payload ack stat ++ rest) = .ok (decodeCommand cmd comp payload) rest := by
  have hsize := size_toNat h
  simp only [packetBytes, List.cons_append, List.nil_append, List.append_assoc, decodePacket, le16_lo8_hi8, if_true, hsize,
    List.drop_left, List.take_left]

/-- A packet's bytes from its fields, where SIZE is the payload's length and the checksum is right (R130). -/
theorem packetBytes_of_fields {cmd comp s0 s1 c0 c1 : Byte} {payload : List Byte} (hsize : payload.length = (le16 s0 s1).toNat)
    (hsum : le16 c0 c1 = packetChecksum cmd comp (le16 s0 s1) payload) (ack stat : Byte) :
    packetBytes cmd comp payload ack stat =
      [lo8 Config.magic, hi8 Config.magic, cmd, comp, s0, s1] ++ payload ++ [c0, c1, ack, stat] := by
  have hlen : BitVec.ofNat 16 payload.length = le16 s0 s1 := by rw [hsize, BitVec.ofNat_toNat, BitVec.setWidth_eq]
  simp only [packetBytes, hlen, ← hsum, lo8_le16, hi8_le16]

/-- Whatever decodes as a packet is the bytes of a packet that holds the decoded command. -/
theorem decodePacket_eq_ok {bytes rest : List Byte} {i : Instr} (h : decodePacket bytes = .ok i rest) :
    ∃ cmd comp payload ack stat, payloadFits payload = true ∧ i = decodeCommand cmd comp payload ∧
      bytes = packetBytes cmd comp payload ack stat ++ rest := by
  unfold decodePacket at h
  split at h
  · rename_i m0 m1 tail
    split_ifs at h with hmagic
    split at h
    · rename_i cmd comp s0 s1 body
      dsimp only at h
      split at h
      · rename_i c0 c1 ack stat rest' hbody
        split_ifs at h with hsum
        cases h
        obtain ⟨rfl, rfl⟩ := (le16_eq_magic_iff m0 m1).1 hmagic
        have hsize : (body.take (le16 s0 s1).toNat).length = (le16 s0 s1).toNat := by
          have := congrArg List.length hbody
          simp only [List.length_drop, List.length_cons] at this
          rw [List.length_take]
          omega
        refine ⟨cmd, comp, _, ack, stat, decide_eq_true (hsize.trans_lt (le16 s0 s1).isLt), rfl, ?_⟩
        rw [packetBytes_of_fields hsize hsum]
        simp [← hbody]
      · cases h
    · cases h
  · cases h

/-- The packet of the command that CMD and COMP select is the packet with that CMD and COMP (R133, R154). -/
theorem encodeWith_decodeCommand (ack stat cmd comp : Byte) (payload : List Byte) :
    encodeWith ack stat (decodeCommand cmd comp payload) = packetBytes cmd comp payload ack stat := by
  unfold decodeCommand
  split_ifs <;> simp [encodeWith, *]

theorem wellFormed_decodeCommand (cmd comp : Byte) (payload : List Byte) :
    (decodeCommand cmd comp payload).wellFormed = payloadFits payload := by
  unfold decodeCommand
  split_ifs <;> simp [Instr.wellFormed, isNamedCommand, *]

theorem complete_of_packet {i : Instr} (h : i.codeSet = .packet) : i.complete = true := by
  cases i with
  | rleRun _ _ => cases h
  | rleLit _ _ => cases h
  | _ => rfl

/-- Every well-formed packet command is selected by some CMD and COMP (R133, R152). -/
theorem exists_decodeCommand_eq {i : Instr} (hset : i.codeSet = .packet) (hwf : i.wellFormed = true) :
    ∃ cmd comp payload, i = decodeCommand cmd comp payload := by
  cases i with
  | init comp payload => exact ⟨Config.cmdInit, comp, payload, rfl⟩
  | print comp payload => exact ⟨Config.cmdPrint, comp, payload, rfl⟩
  | fillRaw payload => exact ⟨Config.cmdFill, 0#8, payload, rfl⟩
  | fillRle comp payload =>
    simp only [Instr.wellFormed, Bool.and_eq_true, bne_iff_ne] at hwf
    obtain ⟨hcomp, -⟩ := hwf
    exact ⟨Config.cmdFill, comp, payload, (if_neg hcomp).symm⟩
  | status comp payload => exact ⟨Config.cmdStatus, comp, payload, rfl⟩
  | other cmd comp payload =>
    simp only [Instr.wellFormed, isNamedCommand, Bool.and_eq_true, Bool.not_eq_true', Bool.or_eq_false_iff,
      beq_eq_false_iff_ne] at hwf
    obtain ⟨⟨⟨⟨hinit, hprint⟩, hfill⟩, hstatus⟩, -⟩ := hwf
    exact ⟨cmd, comp, payload, by simp [decodeCommand, hinit, hprint, hfill, hstatus]⟩
  | rleRun _ _ => cases hset
  | rleLit _ _ => cases hset

/-! ### ACK and STATUS at the end of a packet (40_framer.md R194, R195) -/

/-- `s` with other latches ACK and STAT. -/
def withLatches (ack stat : Byte) (s : State) : State := { s with ack := ack, stat := stat }

theorem storeAppend_withLatches (ack stat : Byte) (d : List Byte) (s : State) :
    storeAppend d (withLatches ack stat s) = withLatches ack stat (storeAppend d s) := by
  rcases storeAppend_cases d s with ⟨hfit, h⟩ | ⟨hfull, h⟩
  · rw [h]
    exact storeAppend_of_fits (s := withLatches ack stat s) hfit
  · rw [h]
    exact storeAppend_of_full (s := withLatches ack stat s) hfull

/-- No command and no code reads or writes ACK and STAT (30_encoding.md R137, R138). -/
theorem exec_withLatches (i : Instr) (s : State) :
    ∃ t, ∀ ack stat : Byte, exec i (withLatches ack stat s) = .next (withLatches ack stat t) := by
  cases i with
  | init comp payload => exact ⟨{ s with vram := [], vramLen := 0#32 }, fun _ _ => rfl⟩
  | print comp payload =>
    by_cases h : s.partCnt = s.params.maxParts
    · exact ⟨raiseFatal .overflow (Config.cmdPrint.setWidth 32) s, fun _ _ => if_pos h⟩
    · exact ⟨{ s with
               parts := s.parts ++ [{ pal := s.palLatch, tiles := s.vram }]
               partCnt := s.partCnt + 1#32
               rowsAcc := addRows s.rowsAcc (tileRows s.vram) }, fun _ _ => if_neg h⟩
  | fillRaw payload => exact ⟨storeAppend payload s, fun ack stat => congrArg _ (storeAppend_withLatches ack stat payload s)⟩
  | fillRle comp payload =>
    exact ⟨_, fun ack stat => (exec_fillRle comp payload _).trans (congrArg _ (storeAppend_withLatches ack stat _
      { s with rleBad := s.rleBad || (decompress payload).2, rle := RleUnit.empty }))⟩
  | status comp payload => exact ⟨s, fun _ _ => rfl⟩
  | other cmd comp payload => exact ⟨s, fun _ _ => rfl⟩
  | rleRun n v =>
    obtain ⟨u, hu⟩ := execCode_eq (.rleRun n v) s.rle
    exact ⟨{ s with rle := u }, fun ack stat => hu (withLatches ack stat s)⟩
  | rleLit n bytes =>
    obtain ⟨u, hu⟩ := execCode_eq (.rleLit n bytes) s.rle
    exact ⟨{ s with rle := u }, fun ack stat => hu (withLatches ack stat s)⟩

theorem commit_withLatches (s : State) :
    ∃ t, ∀ ack stat : Byte, commit (withLatches ack stat s) = .next (withLatches ack stat t) := by
  obtain ⟨t, ht⟩ := exec_withLatches (latchedInstr s) s
  refine ⟨{ t with pbuf := [] }, fun ack stat => ?_⟩
  change onNext (exec (latchedInstr s) (withLatches ack stat s)) _ = _
  rw [ht]
  rfl

/-- Validation (R195): the STATUS bytes that it cannot tell apart, all of them where the checksums match and else those with one
bit 0, lead to one state but for the latches. -/
theorem fieldStatus_withLatches (odd : Bool) (s : State) :
    ∃ t, ∀ ack old b : Byte, (s.csumAcc = s.csumRx ∨ b.getLsbD 0 = odd) →
      fieldStatus b (withLatches ack old s) = .next (withLatches ack b t) := by
  by_cases hmatch : s.csumAcc = s.csumRx
  · obtain ⟨t, ht⟩ := commit_withLatches { s with field := .magic0 }
    exact ⟨t, fun ack old b _ => (if_pos hmatch).trans (ht ack b)⟩
  · by_cases hfatal : (odd && s.strict) = true
    · refine ⟨raiseFatal .checksum (checksumInfo s) { s with field := .magic0 }, fun ack old b hb => ?_⟩
      obtain rfl := hb.resolve_left hmatch
      exact (if_neg hmatch).trans (if_pos hfatal)
    · refine ⟨raiseSkip { s with field := .magic0 }, fun ack old b hb => ?_⟩
      obtain rfl := hb.resolve_left hmatch
      exact (if_neg hmatch).trans (if_neg hfatal)

/-- The step on the byte in STATUS is the validation (40_framer.md R183, R195). -/
theorem step_byte_status {b : Byte} {rest : List Event} {s : State} (hen : s.en = true) (hrec : s.session = .receiving)
    (hstatus : s.field = .status) (hp : s.pending = .byteIn b :: rest) :
    step s = fieldStatus b { s with idleCnt := 0#32, pending := rest, csrAnswer := .quiet } := by
  rw [step_byte_receiving hen hrec hp]
  simp only [fieldRule, hstatus]

end Sys2Proof.Machine

namespace Sys2Proof.Proofs

open Sys2Proof.Machine

/-- Settles O1: a packet command is what its CMD, COMP and payload decode to, so its bytes are a packet's bytes; an RLE code goes
by its control byte. -/
theorem decodeOfEncodeGivesInstructionAndRest : Obligations.DecodeOfEncodeGivesInstructionAndRest := by
  intro i ack stat rest hwf hrest
  cases hset : i.codeSet with
  | packet =>
    obtain ⟨cmd, comp, payload, rfl⟩ := exists_decodeCommand_eq hset hwf
    rw [wellFormed_decodeCommand] at hwf
    rw [encodeWith_decodeCommand]
    exact decodePacket_packetBytes cmd comp hwf ack stat rest
  | rle => exact decodeRle_encodeWith hset hwf hrest ack stat

/-- Settles O2, by inversion of each code set's decoder. -/
theorem decodedBytesAreAnEncoding : Obligations.DecodedBytesAreAnEncoding := by
  intro set bytes rest i h
  cases set with
  | packet =>
    obtain ⟨cmd, comp, payload, ack, stat, hfits, rfl, hbytes⟩ := decodePacket_eq_ok h
    have hset := decodeCommand_codeSet cmd comp payload
    exact ⟨hset, (wellFormed_decodeCommand cmd comp payload).trans hfits, .inl (complete_of_packet hset),
      ack, stat, by rw [encodeWith_decodeCommand, hbytes]⟩
  | rle =>
    cases bytes with
    | nil => cases h
    | cons c bytes =>
      obtain ⟨j, more, hcode, hset, hwf, hwhole, hbytes⟩ := decodeCode_spec c bytes
      rw [decode, decodeRle_cons, hcode] at h
      cases h
      exact ⟨hset, hwf, hwhole, 0#8, 0#8, hbytes _ _⟩

/-- Settles O3: the magic's two bytes are the halves of 0x3388, and bit 7 of a control byte is its comparison with 128. -/
theorem onlyMagicOpensAPacketAndEveryControlByteIsACode :
    Obligations.OnlyMagicOpensAPacketAndEveryControlByteIsACode := by
  refine ⟨fun m0 m1 rest hne => ⟨le16 m0 m1, ?value, ?rejected⟩, fun c rest => ⟨_, _, decodeRle_cons c rest, ?code⟩⟩
  case value =>
    have := m0.isLt
    have := m1.isLt
    rw [le16_eq, BitVec.toNat_ofNat]
    omega
  case rejected => exact decodePacket_of_badMagic (fun h => hne ((le16_eq_magic_iff m0 m1).1 h)) rest
  case code =>
    have := c.isLt
    by_cases hc : 128 ≤ c.toNat
    · have hlow : c.extractLsb' 0 7 = BitVec.ofNat 7 (c.toNat - 128) := controlByte_low_eq (by omega)
      cases rest with
      | nil => exact .inl ⟨hc, none, by rw [decodeCode_run_nil hc, hlow]⟩
      | cons v tail => exact .inl ⟨hc, some v, by rw [decodeCode_run_cons hc, hlow]⟩
    · exact .inr ⟨by omega, rest.take (c.toNat + 1), by rw [decodeCode_lit hc, controlByte_low_eq rfl]⟩

/-- Settles O23: the STATUS event is the validation of the latched packet, and the two STATUS bytes differ only where it does
not look. -/
theorem ackAndStatusBitsHaveNoEffect : Obligations.AckAndStatusBitsHaveNoEffect := by
  intro a1 a2 b1 b2 rest s hen hrec hstatus hb
  obtain ⟨t, ht⟩ := fieldStatus_withLatches (b1.getLsbD 0) { s with idleCnt := 0#32, pending := rest, csrAnswer := .quiet }
  have hstep (a b : Byte) (hsame : s.csumAcc = s.csumRx ∨ b.getLsbD 0 = b1.getLsbD 0) :
      step { s with ack := a, pending := .byteIn b :: rest } = .next (withLatches a b t) :=
    (step_byte_status (s := { s with ack := a, pending := .byteIn b :: rest }) hen hrec hstatus rfl).trans
      (ht a s.stat b hsame)
  exact ⟨t, hstep a1 b1 (.inr rfl), hstep a2 b2 (hb.imp_right fun h => by rw [getLsbD_zero_eq, getLsbD_zero_eq, h])⟩

/-- Settles O4, by running the decoder on the listed bytes. -/
theorem wordsOfTheSpecDecode : Obligations.WordsOfTheSpecDecode := by
  unfold Obligations.WordsOfTheSpecDecode
  decide

end Sys2Proof.Proofs
end

section
/-! Proofs about the framer: a packet byte by byte, its validation, and the bytes that wait or are discarded. -/

namespace Sys2Proof.Machine

open Sys2Proof.Safety

/-! ### The 16-bit fields and the checksum as they are assembled (40_framer.md R186 to R193) -/

theorem le16_toNat (a b : Byte) : (le16 a b).toNat = a.toNat + 256 * b.toNat := by
  have := a.isLt
  have := b.isLt
  rw [le16_eq, BitVec.toNat_ofNat]
  omega

theorem low16_or_high16 (a b : Byte) : low16 a ||| high16 b = le16 a b := by
  rw [low_or_high_eq, le16_eq]

theorem low16_eq_le16 (a : Byte) : low16 a = le16 a 0#8 := by
  rw [← low16_or_high16]
  exact BitVec.or_zero.symm

theorem low16_toNat (b : Byte) : (low16 b).toNat = b.toNat :=
  BitVec.toNat_setWidth_of_le (by decide)

theorem low16_toNat_lt (b : Byte) : (low16 b).toNat < 256 := by
  rw [low16_toNat]
  exact b.isLt

/-- A value below 256 is one that the first byte of its field left. -/
theorem eq_low16_of_lt {h : Half} (hh : h.toNat < 256) : h = low16 (lo8 h) := by
  apply BitVec.eq_of_toNat_eq
  rw [low16_toNat, lo8, BitVec.extractLsb'_toNat, Nat.shiftRight_zero, Nat.mod_eq_of_lt hh]

/-- A count that a 16-bit value holds is that value. -/
theorem ofNat_eq_of_eq_toNat {h : Half} {n : Nat} (hn : n = h.toNat) : BitVec.ofNat 16 n = h := by
  rw [hn, BitVec.ofNat_toNat, BitVec.setWidth_eq]

/-- With no payload byte yet the checksum is that of CMD, COMP and SIZE (40_framer.md R192). -/
theorem packetChecksum_nil (cmd comp lo hi : Byte) :
    packetChecksum cmd comp (le16 lo hi) [] = cmd.setWidth 16 + comp.setWidth 16 + lo.setWidth 16 + hi.setWidth 16 := by
  rw [packetChecksum, lo8_le16, hi8_le16]
  rfl

theorem packetChecksum_empty (cmd comp : Byte) :
    packetChecksum cmd comp 0#16 [] = cmd.setWidth 16 + comp.setWidth 16 := by
  rw [show (0#16 : Half) = le16 0#8 0#8 from rfl, packetChecksum_nil]
  simp

/-- CSUM_ACC after CMD (40_framer.md R187). -/
theorem addSum_packetChecksum_cmd (b : Byte) : addSum (packetChecksum 0#8 0#8 0#16 []) b = packetChecksum b 0#8 0#16 [] := by
  simp [addSum, packetChecksum_empty]

/-- CSUM_ACC after COMP (40_framer.md R188). -/
theorem addSum_packetChecksum_comp (cmd b : Byte) :
    addSum (packetChecksum cmd 0#8 0#16 []) b = packetChecksum cmd b 0#16 [] := by
  simp [addSum, packetChecksum_empty]

/-- CSUM_ACC after SIZE0 (40_framer.md R189). -/
theorem addSum_packetChecksum_size0 (cmd comp b : Byte) :
    addSum (packetChecksum cmd comp 0#16 []) b = packetChecksum cmd comp (low16 b) [] := by
  simp [addSum, packetChecksum_empty, low16_eq_le16, packetChecksum_nil]

/-- CSUM_ACC after SIZE1 (40_framer.md R190). -/
theorem addSum_packetChecksum_size1 (cmd comp a b : Byte) :
    addSum (packetChecksum cmd comp (low16 a) []) b = packetChecksum cmd comp (le16 a b) [] := by
  simp [addSum, low16_eq_le16, packetChecksum_nil]

/-- CSUM_ACC after a payload byte (40_framer.md R191). -/
theorem addSum_packetChecksum_payload (cmd comp : Byte) (size : Half) (received : List Byte) (b : Byte) :
    addSum (packetChecksum cmd comp size received) b = packetChecksum cmd comp size (received ++ [b]) :=
  (sumBytes_append_single _ _ _).symm

/-- PAL_LATCH is the payload byte number 2 (30_encoding.md R139, 40_framer.md R191). -/
theorem paletteOperand_append_single {received : List Byte} (hlen : received.length < 65536) (b : Byte) :
    paletteOperand (received ++ [b]) = if BitVec.ofNat 16 received.length = 2#16 then b else paletteOperand received := by
  have hidx : BitVec.ofNat 16 received.length = 2#16 ↔ received.length = 2 := by
    rw [← BitVec.toNat_inj, BitVec.toNat_ofNat, BitVec.toNat_ofNat]
    omega
  rw [paletteOperand, paletteOperand]
  split_ifs with htwo <;> rw [hidx] at htwo
  · rw [List.getD_append_right _ _ _ _ htwo.le, htwo]
    rfl
  · obtain hlt | hgt := Nat.lt_or_gt_of_ne htwo
    · rw [List.getD_eq_default _ _ (by simp; omega), List.getD_eq_default _ _ (by omega)]
    · exact List.getD_append _ _ _ _ hgt

/-! ### The framer inside a packet (40_framer.md R186 to R194) -/

/-- `s` inside a packet at FIELD `field`, with these latches and `received` of the payload. -/
def inPacket (field : FramerField) (cmd comp : Byte) (size : Half) (received : List Byte) (s : State) : State :=
  { s with
    field := field, magic := Config.magic, cmd := cmd, comp := comp, size := size
    csumAcc := packetChecksum cmd comp size received, palLatch := paletteOperand received
    pbuf := received, pidx := BitVec.ofNat 16 received.length }

/-- FIELD once SIZE and `received` of the payload have arrived (40_framer.md R190, R191). -/
def payloadField (size : Half) (received : List Byte) : FramerField :=
  if BitVec.ofNat 16 received.length = size then .csum0 else .payload

theorem payloadField_of_lt {size : Half} {received : List Byte} (h : received.length < size.toNat) :
    payloadField size received = .payload := by
  refine if_neg fun he => ?_
  have hmod := congrArg BitVec.toNat he
  rw [BitVec.toNat_ofNat] at hmod
  have := size.isLt
  omega

theorem payloadField_of_eq {size : Half} {received : List Byte} (h : BitVec.ofNat 16 received.length = size) :
    payloadField size received = .csum0 :=
  if_pos h

theorem fieldMagic1_of_magic {b : Byte} {s : State} (h : s.magic ||| high16 b = Config.magic) :
    fieldMagic1 b s = { s with magic := Config.magic, field := .cmd } := by
  simp only [fieldMagic1, h, if_true]

theorem fieldMagic1_of_desync {b : Byte} {s : State} (h : s.magic ||| high16 b ≠ Config.magic) :
    fieldMagic1 b s =
      raiseFatal .desync ((s.magic ||| high16 b).setWidth 32) { s with magic := s.magic ||| high16 b } :=
  if_neg h

theorem fieldRule_at_cmd (b : Byte) (s : State) :
    fieldRule b (inPacket .cmd 0#8 0#8 0#16 [] s) = .next (inPacket .comp b 0#8 0#16 [] s) := by
  simp only [fieldRule, fieldCmd, inPacket, addSum_packetChecksum_cmd]

theorem fieldRule_at_comp (b cmd : Byte) (s : State) :
    fieldRule b (inPacket .comp cmd 0#8 0#16 [] s) = .next (inPacket .size0 cmd b 0#16 [] s) := by
  simp only [fieldRule, fieldComp, inPacket, addSum_packetChecksum_comp]

theorem fieldRule_at_size0 (b cmd comp : Byte) (s : State) :
    fieldRule b (inPacket .size0 cmd comp 0#16 [] s) = .next (inPacket .size1 cmd comp (low16 b) [] s) := by
  simp only [fieldRule, fieldSize0, inPacket, addSum_packetChecksum_size0]

theorem fieldRule_at_size1 (b cmd comp a : Byte) (s : State) :
    fieldRule b (inPacket .size1 cmd comp (low16 a) [] s) =
      .next (inPacket (payloadField (le16 a b) []) cmd comp (le16 a b) [] s) := by
  simp only [fieldRule, fieldSize1, inPacket, low16_or_high16, addSum_packetChecksum_size1, payloadField, List.length_nil,
    eq_comm (a := le16 a b)]

theorem fieldRule_at_payload (b cmd comp : Byte) {size : Half} {received : List Byte} (hlen : received.length < size.toNat)
    (s : State) :
    fieldRule b (inPacket .payload cmd comp size received s) =
      .next (inPacket (payloadField size (received ++ [b])) cmd comp size (received ++ [b]) s) := by
  have hidx : BitVec.ofNat 16 received.length + 1#16 = BitVec.ofNat 16 (received ++ [b]).length := by
    rw [List.length_append, BitVec.ofNat_add]
    rfl
  simp only [fieldRule, fieldPayload, inPacket, addSum_packetChecksum_payload, payloadField, hidx,
    paletteOperand_append_single (hlen.trans size.isLt)]
  rfl

theorem fieldRule_at_csum0 (b cmd comp : Byte) (size : Half) (received : List Byte) (s : State) :
    fieldRule b (inPacket .csum0 cmd comp size received s) =
      .next (inPacket .csum1 cmd comp size received { s with csumRx := low16 b }) := rfl

theorem fieldRule_at_csum1 (b cmd comp : Byte) (size : Half) (received : List Byte) (s : State) :
    fieldRule b (inPacket .csum1 cmd comp size received s) =
      .next (inPacket .ack cmd comp size received { s with csumRx := s.csumRx ||| high16 b }) := rfl

theorem fieldRule_at_ack (b cmd comp : Byte) (size : Half) (received : List Byte) (s : State) :
    fieldRule b (inPacket .ack cmd comp size received s) =
      .next (inPacket .status cmd comp size received { s with ack := b }) := rfl

/-! ### Validation at the STATUS byte (40_framer.md R195 to R198) -/

theorem fieldStatus_of_match {s : State} (h : s.csumAcc = s.csumRx) (b : Byte) :
    fieldStatus b s = commit { s with stat := b, field := .magic0 } :=
  if_pos h

theorem fieldStatus_of_agreement {b : Byte} {s : State} (h : s.csumAcc ≠ s.csumRx) (hodd : b.toNat % 2 = 1)
    (hstrict : s.strict = true) :
    fieldStatus b s = .next (raiseFatal .checksum (checksumInfo s) { s with stat := b, field := .magic0 }) :=
  (if_neg h).trans (if_pos (by rw [getLsbD_zero_eq]; simp [hodd, hstrict]))

theorem fieldStatus_of_skip {b : Byte} {s : State} (h : s.csumAcc ≠ s.csumRx) (hb : b.toNat % 2 = 0 ∨ s.strict = false) :
    fieldStatus b s = .next (raiseSkip { s with stat := b, field := .magic0 }) :=
  (if_neg h).trans (if_neg (by rw [getLsbD_zero_eq]; obtain hb | hb := hb <;> simp [hb]))

theorem checksumInfo_eq (s : State) :
    checksumInfo s = BitVec.ofNat 32 (65536 * s.csumAcc.toNat + s.csumRx.toNat) := by
  apply BitVec.eq_of_toNat_eq
  have := s.csumAcc.isLt
  have hrx := s.csumRx.isLt
  rw [checksumInfo, BitVec.toNat_append, ← Nat.shiftLeft_add_eq_or_of_lt hrx, Nat.shiftLeft_eq, BitVec.toNat_ofNat]
  omega

/-! ### The next event (00_scope.md R6, R7) -/

/-- An enabled event behind others that are not is the next one, and those wait in their order (00_scope.md R8). -/
theorem takeEnabled_append {before after : List Event} {e : Event} {s : State} (hbefore : ∀ x ∈ before, enabled x s = false)
    (he : enabled e s = true) : takeEnabled s (before ++ e :: after) = some (e, before ++ after) := by
  induction before with
  | nil => exact if_pos he
  | cons x xs ih =>
    obtain ⟨hx, hxs⟩ := List.forall_mem_cons.1 hbefore
    simp [takeEnabled, hx, ih hxs]

/-- The step takes the first enabled event, wherever it stands. -/
theorem step_first_enabled {before after : List Event} {e : Event} {s : State} (hp : s.pending = before ++ e :: after)
    (hbefore : ∀ x ∈ before, enabled x s = false) (he : enabled e s = true) :
    step s = applyEvent e (beginEvent (before ++ after) s) := by
  simp only [step, nextEvent, hp, takeEnabled_append hbefore he]

/-- in_ready (40_framer.md R181). -/
theorem inReady_iff (s : State) :
    s.inReady = true ↔ s.en = true ∧ (s.session = .idle ∨ s.session = .receiving ∨ s.session = .aborted) := by
  simp [State.inReady, or_assoc]

/-- `s` as a ByteIn leaves it before the rule of FIELD: the idle timer restarted, and `rest` still pending. -/
def acceptByte (rest : List Event) (s : State) : State := { s with idleCnt := 0#32, pending := rest, csrAnswer := .quiet }

/-- The step in ABORTED discards the byte (40_framer.md R199). -/
theorem step_byte_aborted {b : Byte} {rest : List Event} {s : State} (hen : s.en = true) (hab : s.session = .aborted)
    (hp : s.pending = .byteIn b :: rest) : step s = .next (acceptByte rest s) := by
  rw [step_head hp (inReady_of_open hen (.inr (.inr hab)))]
  simp only [applyEvent, byteInEvent, beginEvent, hab, acceptByte]

/-! ### A packet's bytes, one step each (40_framer.md R183) -/

/-- The events of some bytes, and `rest` after them. -/
def pendingBytes (bs : List Byte) (rest : List Event) : List Event := bs.map Event.byteIn ++ rest

/-- `s` with the latches of a packet's last four bytes as MAGIC0 leaves them (40_framer.md R185). -/
def clearTrailer (s : State) : State := { s with csumRx := 0#16, ack := 0#8, stat := 0#8 }

theorem onNext_run_zero (o : Outcome) : onNext o (run 0) = o := by
  cases o <;> rfl

/-- A run that starts with a byte in RECEIVING starts with the rule of the current FIELD. -/
theorem run_byte {b : Byte} {rest : List Event} {s : State} (k : Nat) (hen : s.en = true) (hrec : s.session = .receiving)
    (hp : s.pending = .byteIn b :: rest) : run (k + 1) s = onNext (fieldRule b (acceptByte rest s)) (run k) := by
  rw [run_succ, step_byte_receiving hen hrec hp]
  rfl

/-- In IDLE the first byte starts a session and is then its first byte at a packet boundary (45_session.md R340). -/
theorem run_byte_idle {b : Byte} {rest : List Event} {s : State} (k : Nat) (hen : s.en = true) (hidle : s.session = .idle)
    (hp : s.pending = .byteIn b :: rest) : run (k + 1) s = run (k + 1) (sessionStart s) := by
  rw [run_byte (s := sessionStart s) k hen rfl hp, run_succ, step_byte_idle hen hidle hp]
  rfl

section
variable {s : State} (hen : s.en = true) (hrec : s.session = .receiving)
include hen hrec

/-- Inside a packet, where the rule of FIELD answers the outcome `o`. -/
theorem run_byte_inPacket {b : Byte} {rest : List Event} {field : FramerField} {cmd comp : Byte} {size : Half}
    {received : List Byte} {o : Outcome} (k : Nat)
    (hrule : fieldRule b (inPacket field cmd comp size received (acceptByte rest s)) = o) :
    run (k + 1) (inPacket field cmd comp size received (acceptByte (.byteIn b :: rest) s)) = onNext o (run k) := by
  rw [run_byte (s := inPacket field cmd comp size received (acceptByte (.byteIn b :: rest) s)) k hen hrec rfl, ← hrule]
  rfl

theorem run_byte_inPacket_next {b : Byte} {rest : List Event} {field : FramerField} {cmd comp : Byte} {size : Half}
    {received : List Byte} {t : State} (k : Nat)
    (hrule : fieldRule b (inPacket field cmd comp size received (acceptByte rest s)) = .next t) :
    run (k + 1) (inPacket field cmd comp size received (acceptByte (.byteIn b :: rest) s)) = run k t :=
  run_byte_inPacket hen hrec k hrule

/-- The six bytes before the payload (40_framer.md R185 to R190). -/
theorem run_header {cmd comp s0 s1 : Byte} {rest : List Event} (k : Nat) (hboundary : s.field = .magic0)
    (hp : s.pending = pendingBytes [lo8 Config.magic, hi8 Config.magic, cmd, comp, s0, s1] rest) :
    run (k + 6) s =
      run k (inPacket (payloadField (le16 s0 s1) []) cmd comp (le16 s0 s1) [] (acceptByte rest (clearTrailer s))) := by
  calc run (k + 6) s
    _ = run (k + 5) (fieldMagic0 (lo8 Config.magic)
          (acceptByte (pendingBytes [hi8 Config.magic, cmd, comp, s0, s1] rest) s)) := by
        rw [run_byte (k + 5) hen hrec hp, fieldRule, show (acceptByte _ s).field = .magic0 from hboundary]
        rfl
    _ = run (k + 4) (inPacket .cmd 0#8 0#8 0#16 [] (acceptByte (pendingBytes [cmd, comp, s0, s1] rest) (clearTrailer s))) := by
        have hmagic : low16 (lo8 Config.magic) ||| high16 (hi8 Config.magic) = Config.magic := by decide
        rw [run_byte (s := fieldMagic0 (lo8 Config.magic) (acceptByte (pendingBytes _ rest) s)) (k + 4) hen hrec rfl]
        exact congrArg (fun t => onNext (.next t) (run (k + 4))) (fieldMagic1_of_magic hmagic)
    _ = run (k + 3) (inPacket .comp cmd 0#8 0#16 [] (acceptByte (pendingBytes [comp, s0, s1] rest) (clearTrailer s))) :=
        run_byte_inPacket_next (s := clearTrailer s) hen hrec _ (fieldRule_at_cmd _ _)
    _ = run (k + 2) (inPacket .size0 cmd comp 0#16 [] (acceptByte (pendingBytes [s0, s1] rest) (clearTrailer s))) :=
        run_byte_inPacket_next (s := clearTrailer s) hen hrec _ (fieldRule_at_comp _ _ _)
    _ = run (k + 1) (inPacket .size1 cmd comp (low16 s0) [] (acceptByte (pendingBytes [s1] rest) (clearTrailer s))) :=
        run_byte_inPacket_next (s := clearTrailer s) hen hrec _ (fieldRule_at_size0 _ _ _ _)
    _ = _ := run_byte_inPacket_next (s := clearTrailer s) hen hrec _ (fieldRule_at_size1 _ _ _ _ _)

/-- Payload bytes, as many as SIZE still counts (40_framer.md R191). -/
theorem run_payload {cmd comp : Byte} {size : Half} {rest : List Event} (k : Nat) (received todo : List Byte)
    (hlen : received.length + todo.length ≤ size.toNat) :
    run (k + todo.length)
        (inPacket (payloadField size received) cmd comp size received (acceptByte (pendingBytes todo rest) s)) =
      run k (inPacket (payloadField size (received ++ todo)) cmd comp size (received ++ todo) (acceptByte rest s)) := by
  induction todo generalizing received with
  | nil => rw [List.append_nil]; rfl
  | cons b todo ih =>
    have hlt : received.length < size.toNat := by rw [List.length_cons] at hlen; omega
    have hnext := ih (received ++ [b]) (by simpa [Nat.add_assoc, Nat.add_comm 1] using hlen)
    rw [List.append_assoc, List.singleton_append] at hnext
    rw [payloadField_of_lt hlt, ← hnext]
    exact run_byte_inPacket_next hen hrec _ (fieldRule_at_payload b cmd comp hlt _)

/-- The four bytes after the payload, with a matching checksum (40_framer.md R193 to R195). -/
theorem run_trailer {cmd comp c0 c1 ack stat : Byte} {size : Half} {payload : List Byte} {rest : List Event} (k : Nat)
    (hsum : packetChecksum cmd comp size payload = le16 c0 c1) :
    run (k + 4) (inPacket .csum0 cmd comp size payload (acceptByte (pendingBytes [c0, c1, ack, stat] rest) s)) =
      onNext (commit (inPacket .magic0 cmd comp size payload
        (acceptByte rest { s with csumRx := le16 c0 c1, ack := ack, stat := stat }))) (run k) := by
  calc run (k + 4) (inPacket .csum0 cmd comp size payload (acceptByte (pendingBytes [c0, c1, ack, stat] rest) s))
    _ = run (k + 3) (inPacket .csum1 cmd comp size payload
          (acceptByte (pendingBytes [c1, ack, stat] rest) { s with csumRx := low16 c0 })) :=
        run_byte_inPacket_next hen hrec _ (fieldRule_at_csum0 _ _ _ _ _ _)
    _ = run (k + 2) (inPacket .ack cmd comp size payload
          (acceptByte (pendingBytes [ack, stat] rest) { s with csumRx := low16 c0 ||| high16 c1 })) :=
        run_byte_inPacket_next (s := { s with csumRx := low16 c0 }) hen hrec _ (fieldRule_at_csum1 _ _ _ _ _ _)
    _ = run (k + 1) (inPacket .status cmd comp size payload
          (acceptByte (pendingBytes [stat] rest) { s with csumRx := le16 c0 c1, ack := ack })) := by
        rw [low16_or_high16]
        exact run_byte_inPacket_next (s := { s with csumRx := le16 c0 c1 }) hen hrec _ (fieldRule_at_ack _ _ _ _ _ _)
    _ = _ :=
        run_byte_inPacket (s := { s with csumRx := le16 c0 c1, ack := ack }) hen hrec k (fieldStatus_of_match hsum stat)

/-- A whole packet from a packet boundary to the end of its commit (40_framer.md R185 to R198). -/
theorem run_packetBytes {cmd comp ack stat : Byte} {payload : List Byte} {rest : List Event}
    (hfits : payloadFits payload = true) (hboundary : s.field = .magic0)
    (hp : s.pending = pendingBytes (packetBytes cmd comp payload ack stat) rest) :
    run (10 + payload.length) s = commit (framedState cmd comp payload ack stat { s with pending := rest }) := by
  let size := BitVec.ofNat 16 payload.length
  let csum := packetChecksum cmd comp size payload
  have hsize : le16 (lo8 size) (hi8 size) = size := le16_lo8_hi8 size
  have hsum : le16 (lo8 csum) (hi8 csum) = csum := le16_lo8_hi8 csum
  let trailer := pendingBytes [lo8 csum, hi8 csum, ack, stat] rest
  have hsplit : s.pending = pendingBytes [lo8 Config.magic, hi8 Config.magic, cmd, comp, lo8 size, hi8 size]
      (pendingBytes payload trailer) := by
    simp [hp, packetBytes, pendingBytes, trailer, size, csum]
  calc run (10 + payload.length) s
    _ = run (0 + 4 + payload.length + 6) s := by congr 1; omega
    _ = run (0 + 4 + payload.length) (inPacket (payloadField size []) cmd comp size []
          (acceptByte (pendingBytes payload trailer) (clearTrailer s))) := by
        rw [run_header hen hrec _ hboundary hsplit, hsize]
    _ = run (0 + 4) (inPacket .csum0 cmd comp size payload (acceptByte trailer (clearTrailer s))) := by
        rw [run_payload (s := clearTrailer s) hen hrec _ [] payload (by simp [size, size_toNat hfits]), List.nil_append,
          payloadField_of_eq rfl]
    _ = commit (framedState cmd comp payload ack stat { s with pending := rest }) := by
        rw [run_trailer (s := clearTrailer s) hen hrec 0 hsum.symm, onNext_run_zero, hsum]
        rfl

end

/-- The latches' operands are what the dispatch turns into the command again (30_encoding.md R154). -/
theorem packetOperands_decodeCommand (cmd comp : Byte) (payload : List Byte) :
    packetOperands (decodeCommand cmd comp payload) = some (cmd, comp, payload) := by
  unfold decodeCommand
  split_ifs <;> simp [packetOperands, *]

theorem eq_decodeCommand_of_packetOperands {i : Instr} {cmd comp : Byte} {payload : List Byte}
    (hops : packetOperands i = some (cmd, comp, payload)) (hwf : i.wellFormed = true) : i = decodeCommand cmd comp payload := by
  have hset : i.codeSet = .packet := by
    cases i with
    | rleRun _ _ => cases hops
    | rleLit _ _ => cases hops
    | _ => rfl
  obtain ⟨cmd', comp', payload', rfl⟩ := exists_decodeCommand_eq hset hwf
  rw [packetOperands_decodeCommand] at hops
  cases hops
  rfl

end Sys2Proof.Machine

namespace Sys2Proof.Proofs

open Sys2Proof.Machine Sys2Proof.Safety

/-- Settles O19: the header, the payload by induction and the trailer leave the framer as `framedState`, and the commit executes
the instruction that the latches decode to; from IDLE the session start comes first. -/
theorem packetBytesRunTheirCommand : Obligations.PacketBytesRunTheirCommand := by
  intro i cmd comp ack stat payload rest s hops hwf hen hp
  obtain rfl := eq_decodeCommand_of_packetOperands hops hwf
  rw [wellFormed_decodeCommand] at hwf
  rw [encodeWith_decodeCommand] at hp
  refine ⟨fun hrec hboundary => run_packetBytes hen hrec hwf hboundary hp, fun hidle => ?_⟩
  have hstart : run (10 + payload.length) s = run (10 + payload.length) (sessionStart s) := by
    rw [show 10 + payload.length = 9 + payload.length + 1 by omega]
    exact run_byte_idle _ hen hidle hp
  exact hstart.trans (run_packetBytes (s := sessionStart s) hen rfl hwf rfl hp)

/-- Settles O18, by the validation of a matching packet. -/
theorem stepRunsTheLatchedInstruction : Obligations.StepRunsTheLatchedInstruction := by
  intro b rest s hen hrec hstatus hmatch hp
  refine ⟨fun hlen => (wellFormed_decodeCommand _ _ _).trans (decide_eq_true hlen), ?_⟩
  exact (step_byte_status hen hrec hstatus hp).trans (fieldStatus_of_match (s := acceptByte rest s) hmatch b)

/-- Settles O20, by the validation of a packet to skip. -/
theorem mismatchWithoutAgreementSkipsThePacket : Obligations.MismatchWithoutAgreementSkipsThePacket := by
  intro b rest s hen hrec hstatus hmismatch hskip hp
  rw [← satInc_eq]
  exact (step_byte_status hen hrec hstatus hp).trans (fieldStatus_of_skip (s := acceptByte rest s) hmismatch hskip)

/-- Settles O21, by the validation of a packet whose mismatch the peer confirms. -/
theorem mismatchWithAgreementAborts : Obligations.MismatchWithAgreementAborts := by
  intro b rest s hen hrec hstatus hmismatch hodd hstrict hp
  rw [← checksumInfo_eq]
  exact (step_byte_status hen hrec hstatus hp).trans (fieldStatus_of_agreement (s := acceptByte rest s) hmismatch hodd hstrict)

/-- Settles O22: the value checked is the pair of bytes as `LE16`, and 0x3388 is the pair 88 33. -/
theorem badMagicAborts : Obligations.BadMagicAborts := by
  intro b0 b1 rest s hen hrec hmagic1 hmagic hp
  have hvalue : s.magic ||| high16 b1 = le16 b0 b1 := by rw [hmagic]; exact low16_or_high16 b0 b1
  have hstep : step s = .next (fieldMagic1 b1 (acceptByte rest s)) := by
    rw [step_byte_receiving hen hrec hp]
    simp only [fieldRule, hmagic1, acceptByte]
  rw [hstep]
  refine ⟨fun hgood => ?_, fun hbad => ?_⟩
  · rw [fieldMagic1_of_magic (s := acceptByte rest s) (hvalue.trans ((le16_eq_magic_iff b0 b1).2 hgood))]
    rfl
  · have hinfo : (le16 b0 b1).setWidth 32 = BitVec.ofNat 32 (b0.toNat + 256 * b1.toNat) := by
      rw [← le16_toNat, BitVec.ofNat_toNat]
    rw [fieldMagic1_of_desync (s := acceptByte rest s) fun he => hbad ((le16_eq_magic_iff b0 b1).1 (hvalue.symm.trans he)),
      show (acceptByte rest s).magic ||| high16 b1 = le16 b0 b1 from hvalue, hinfo, le16_eq]
    rfl

/-- Settles O24, by induction on the bytes. -/
theorem bytesAfterAnAbortAreDiscarded : Obligations.BytesAfterAnAbortAreDiscarded := by
  intro b bs rest s hen hab hp
  induction bs generalizing b s with
  | nil => rw [run_succ, step_byte_aborted hen hab hp]; rfl
  | cons c bs ih =>
    rw [run_succ, step_byte_aborted hen hab hp]
    exact ih c (acceptByte ((c :: bs).map Event.byteIn ++ rest) s) hen hab rfl

/-- Settles O25: held bytes are not enabled, so the step passes over them. -/
theorem bytesWaitWhileNotReady : Obligations.BytesWaitWhileNotReady := by
  refine ⟨fun b s => ⟨inReady_iff s, Iff.rfl⟩, fun bs e rest s hready he hp => step_first_enabled hp ?_ he⟩
  intro x hx
  obtain ⟨b, -, rfl⟩ := List.mem_map.1 hx
  exact hready

end Sys2Proof.Proofs
end

section
/-! Proofs about the framer's invariant: each field rule keeps it, and everything else leaves the framer or resets it. -/

namespace Sys2Proof.Machine

open Sys2Proof.Safety

/-! ### A packet boundary (40_framer.md R184) -/

theorem framerInv_of_boundary {s : State} (h : s.field = .magic0) : FramerInv s :=
  fun hne => absurd h hne

theorem boundary_of_framerInv {s : State} (h : FramerInv s) (hs : s.session ≠ .receiving) : s.field = .magic0 := by
  by_contra hfield
  obtain ⟨hrec, -⟩ := h hfield
  exact hs hrec

theorem storeAppend_boundary {d : List Byte} {s : State} (h : s.field = .magic0) : (storeAppend d s).field = .magic0 := by
  rcases storeAppend_cases d s with ⟨-, he⟩ | ⟨-, he⟩ <;> rw [he]
  · exact h
  · rfl

/-- A command leaves the cursor at a packet boundary, the abort's included (41_commands.md R220, 60_exceptions.md R410). -/
theorem exec_boundary {i : Instr} {s t : State} (h : s.field = .magic0) (ht : exec i s = .next t) : t.field = .magic0 := by
  rcases exec_cases ht with ⟨_, _, -, rfl⟩ | ⟨_, _, -, -, rfl⟩ | ⟨_, _, -, -, rfl⟩ | ⟨_, -, rfl⟩ |
    ⟨_, _, u, -, -, rfl⟩ | ⟨_, _, -, rfl⟩ | ⟨_, _, _, -, rfl⟩ | ⟨_, -, rfl⟩
  · exact h
  · rfl
  · exact h
  · exact storeAppend_boundary h
  · exact storeAppend_boundary (s := { s with rleBad := s.rleBad || u.bad, rle := RleUnit.empty }) h
  · exact h
  · exact h
  · exact h

/-- Validation ends the packet, whatever it decides (40_framer.md R195). -/
theorem fieldStatus_boundary {b : Byte} {s t : State} (ht : fieldStatus b s = .next t) : t.field = .magic0 := by
  unfold fieldStatus at ht
  split_ifs at ht
  · obtain ⟨u, hu, hnext⟩ := onNext_eq_next ht
    have hboundary : u.field = .magic0 := exec_boundary rfl hu
    cases hnext
    exact hboundary
  · cases ht
    rfl
  · cases ht
    rfl

/-! ### The framer's states, FIELD by FIELD -/

/-- The states that `FramerInv` allows: a packet boundary, or a packet of which a part has arrived. -/
inductive Framing : State → Prop
  | boundary {s : State} (hfield : s.field = .magic0) : Framing s
  | magic1 (m : Byte) {s : State} (hrec : s.session = .receiving) :
      Framing { inPacket .magic1 0#8 0#8 0#16 [] s with magic := low16 m }
  | cmd {s : State} (hrec : s.session = .receiving) : Framing (inPacket .cmd 0#8 0#8 0#16 [] s)
  | comp (cmd : Byte) {s : State} (hrec : s.session = .receiving) : Framing (inPacket .comp cmd 0#8 0#16 [] s)
  | size0 (cmd comp : Byte) {s : State} (hrec : s.session = .receiving) : Framing (inPacket .size0 cmd comp 0#16 [] s)
  | size1 (cmd comp lo : Byte) {s : State} (hrec : s.session = .receiving) :
      Framing (inPacket .size1 cmd comp (low16 lo) [] s)
  | payload (cmd comp : Byte) {size : Half} {received : List Byte} {s : State} (hrec : s.session = .receiving)
      (hlen : received.length < size.toNat) : Framing (inPacket .payload cmd comp size received s)
  | csum0 (cmd comp : Byte) {size : Half} {payload : List Byte} {s : State} (hrec : s.session = .receiving)
      (hlen : payload.length = size.toNat) : Framing (inPacket .csum0 cmd comp size payload s)
  | csum1 (cmd comp : Byte) {size : Half} {payload : List Byte} {s : State} (hrec : s.session = .receiving)
      (hlen : payload.length = size.toNat) (hrx : s.csumRx.toNat < 256) : Framing (inPacket .csum1 cmd comp size payload s)
  | ack (cmd comp : Byte) {size : Half} {payload : List Byte} {s : State} (hrec : s.session = .receiving)
      (hlen : payload.length = size.toNat) : Framing (inPacket .ack cmd comp size payload s)
  | status (cmd comp : Byte) {size : Half} {payload : List Byte} {s : State} (hrec : s.session = .receiving)
      (hlen : payload.length = size.toNat) : Framing (inPacket .status cmd comp size payload s)

/-- Inside a packet the invariant fixes all that `inPacket` writes but the magic. -/
theorem eq_inPacket_of_framerInv {s : State} (h : FramerInv s) (h0 : s.field ≠ .magic0) :
    s = { inPacket s.field s.cmd s.comp s.size s.pbuf s with magic := s.magic } := by
  obtain ⟨-, hlen, hpal, hsum, -⟩ := h h0
  simp only [inPacket, ← hpal, ← hsum, ofNat_eq_of_eq_toNat hlen]

theorem framing_of_framerInv {s : State} (h : FramerInv s) : Framing s := by
  by_cases h0 : s.field = .magic0
  · exact .boundary h0
  have hin := eq_inPacket_of_framerInv h h0
  obtain ⟨hrec, hlen, -, -, hmagic1, hmagic, hclause⟩ := h h0
  have hempty : s.pidx = 0#16 → s.pbuf = [] := fun hidx =>
    List.length_eq_zero_iff.1 (hlen.trans (congrArg BitVec.toNat hidx))
  have hwhole : s.pidx = s.size → s.pbuf.length = s.size.toNat := fun hidx => hlen.trans (congrArg BitVec.toNat hidx)
  cases hfield : s.field <;> simp only [hfield] at hin hclause
  case magic0 => exact absurd hfield h0
  case magic1 =>
    obtain ⟨hcmd, hcomp, hsize, hidx⟩ := hclause
    rw [hcmd, hcomp, hsize, hempty hidx, eq_low16_of_lt (hmagic1 hfield)] at hin
    exact hin ▸ .magic1 _ hrec
  all_goals rw [hmagic (by simp [hfield])] at hin
  case cmd =>
    obtain ⟨hcmd, hcomp, hsize, hidx⟩ := hclause
    rw [hcmd, hcomp, hsize, hempty hidx] at hin
    exact hin ▸ .cmd hrec
  case comp =>
    obtain ⟨hcomp, hsize, hidx⟩ := hclause
    rw [hcomp, hsize, hempty hidx] at hin
    exact hin ▸ .comp _ hrec
  case size0 =>
    obtain ⟨hsize, hidx⟩ := hclause
    rw [hsize, hempty hidx] at hin
    exact hin ▸ .size0 _ _ hrec
  case size1 =>
    obtain ⟨hsize, hidx⟩ := hclause
    rw [hempty hidx, eq_low16_of_lt hsize] at hin
    exact hin ▸ .size1 _ _ _ hrec
  case payload => exact hin ▸ .payload _ _ hrec (hlen.trans_lt hclause)
  case csum0 => exact hin ▸ .csum0 _ _ hrec (hwhole hclause)
  case csum1 =>
    obtain ⟨hidx, hrx⟩ := hclause
    exact hin ▸ .csum1 _ _ hrec (hwhole hidx) hrx
  case ack => exact hin ▸ .ack _ _ hrec (hwhole hclause)
  case status => exact hin ▸ .status _ _ hrec (hwhole hclause)

theorem framerInv_of_framing {s : State} (h : Framing s) : FramerInv s := by
  have hcount {received : List Byte} {size : Half} (hle : received.length ≤ size.toNat) :
      received.length = (BitVec.ofNat 16 received.length).toNat := by
    have := size.isLt
    rw [BitVec.toNat_ofNat]
    omega
  cases h with
  | boundary hfield => exact framerInv_of_boundary hfield
  | magic1 m hrec =>
    exact fun _ => ⟨hrec, rfl, rfl, rfl, fun _ => low16_toNat_lt m, fun hne => absurd rfl hne, rfl, rfl, rfl, rfl⟩
  | cmd hrec => exact fun _ => ⟨hrec, rfl, rfl, rfl, nofun, fun _ => rfl, rfl, rfl, rfl, rfl⟩
  | comp cmd hrec => exact fun _ => ⟨hrec, rfl, rfl, rfl, nofun, fun _ => rfl, rfl, rfl, rfl⟩
  | size0 cmd comp hrec => exact fun _ => ⟨hrec, rfl, rfl, rfl, nofun, fun _ => rfl, rfl, rfl⟩
  | size1 cmd comp lo hrec =>
    exact fun _ => ⟨hrec, rfl, rfl, rfl, nofun, fun _ => rfl, low16_toNat_lt lo, rfl⟩
  | payload cmd comp hrec hlen =>
    exact fun _ => ⟨hrec, hcount hlen.le, rfl, rfl, nofun, fun _ => rfl, (hcount hlen.le).symm.trans_lt hlen⟩
  | csum0 cmd comp hrec hlen =>
    exact fun _ => ⟨hrec, hcount hlen.le, rfl, rfl, nofun, fun _ => rfl, ofNat_eq_of_eq_toNat hlen⟩
  | csum1 cmd comp hrec hlen hrx =>
    exact fun _ => ⟨hrec, hcount hlen.le, rfl, rfl, nofun, fun _ => rfl, ofNat_eq_of_eq_toNat hlen, hrx⟩
  | ack cmd comp hrec hlen =>
    exact fun _ => ⟨hrec, hcount hlen.le, rfl, rfl, nofun, fun _ => rfl, ofNat_eq_of_eq_toNat hlen⟩
  | status cmd comp hrec hlen =>
    exact fun _ => ⟨hrec, hcount hlen.le, rfl, rfl, nofun, fun _ => rfl, ofNat_eq_of_eq_toNat hlen⟩

/-! ### Every event keeps the invariant -/

theorem framing_payloadField (cmd comp : Byte) {size : Half} {received : List Byte} {s : State} (hrec : s.session = .receiving)
    (hlen : received.length ≤ size.toNat) : Framing (inPacket (payloadField size received) cmd comp size received s) := by
  obtain hlt | heq := hlen.lt_or_eq
  · rw [payloadField_of_lt hlt]
    exact .payload cmd comp hrec hlt
  · rw [payloadField_of_eq (ofNat_eq_of_eq_toNat heq)]
    exact .csum0 cmd comp hrec heq

theorem framing_fieldMagic0 (b : Byte) {s : State} (hrec : s.session = .receiving) : Framing (fieldMagic0 b s) :=
  .magic1 b (s := clearTrailer s) hrec

/-- Each byte of a packet leads from one of the framer's states to the next (40_framer.md R185 to R195). -/
theorem framing_fieldRule {b : Byte} {s t : State} (h : Framing s) (hrec : s.session = .receiving)
    (ht : fieldRule b s = .next t) : Framing t := by
  cases h with
  | boundary hfield =>
    simp only [fieldRule, hfield] at ht
    cases ht
    exact framing_fieldMagic0 b hrec
  | @magic1 m u hrec =>
    cases ht
    by_cases hmagic : low16 m ||| high16 b = Config.magic
    · rw [fieldMagic1_of_magic hmagic]
      exact .cmd (s := u) hrec
    · rw [fieldMagic1_of_desync hmagic]
      exact .boundary rfl
  | cmd hrec =>
    cases (fieldRule_at_cmd _ _).symm.trans ht
    exact .comp _ hrec
  | comp cmd hrec =>
    cases (fieldRule_at_comp _ _ _).symm.trans ht
    exact .size0 _ _ hrec
  | size0 cmd comp hrec =>
    cases (fieldRule_at_size0 _ _ _ _).symm.trans ht
    exact .size1 _ _ _ hrec
  | size1 cmd comp lo hrec =>
    cases (fieldRule_at_size1 _ _ _ _ _).symm.trans ht
    exact framing_payloadField _ _ hrec (Nat.zero_le _)
  | payload cmd comp hrec hlen =>
    cases (fieldRule_at_payload _ _ _ hlen _).symm.trans ht
    exact framing_payloadField _ _ hrec (by rw [List.length_append]; exact hlen)
  | @csum0 cmd comp size payload u hrec hlen =>
    cases ht
    exact .csum1 cmd comp (s := { u with csumRx := low16 b }) hrec hlen (low16_toNat_lt b)
  | @csum1 cmd comp size payload u hrec hlen hrx =>
    cases ht
    exact .ack cmd comp (s := { u with csumRx := u.csumRx ||| high16 b }) hrec hlen
  | @ack cmd comp size payload u hrec hlen =>
    cases ht
    exact .status cmd comp (s := { u with ack := b }) hrec hlen
  | status cmd comp hrec hlen => exact .boundary (fieldStatus_boundary ht)

theorem framerInv_byteInEvent {b : Byte} {s t : State} (h : FramerInv s) (ht : byteInEvent b s = .next t) : FramerInv t := by
  unfold byteInEvent at ht
  split at ht
  next =>
    cases ht
    exact framerInv_of_framing (framing_fieldMagic0 b rfl)
  next hrec =>
    exact framerInv_of_framing (framing_fieldRule (s := { s with idleCnt := 0#32 }) (framing_of_framerInv h) hrec ht)
  next =>
    cases ht
    exact h
  next => exact Host.Outcome.next.inj ht ▸ h
  next => exact Host.Outcome.next.inj ht ▸ h

/-- The end event closes the framer where a packet is open (40_framer.md R200, 45_session.md R347 to R349). -/
theorem framerInv_endEvent {s : State} (h : FramerInv s) : FramerInv (endEvent s) := by
  rcases endEvent_cases s with ⟨-, hfield, he⟩ | ⟨-, -, he⟩ | ⟨hab, he⟩ | ⟨-, he⟩ <;> rw [he]
  · exact framerInv_of_boundary hfield
  · exact framerInv_of_boundary rfl
  · have hfield : s.field = .magic0 := boundary_of_framerInv h (by simp [hab])
    exact framerInv_of_boundary hfield
  · exact h

theorem framerInv_timeoutCheck {s : State} (h : FramerInv s) : FramerInv (timeoutCheck s) := by
  rcases timeoutCheck_cases s with ⟨-, he⟩ | ⟨-, he⟩ <;> rw [he]
  · exact framerInv_endEvent h
  · exact h

theorem framerInv_tickEvent {s : State} (h : FramerInv s) : FramerInv (tickEvent s) := by
  unfold tickEvent
  split_ifs
  · exact framerInv_timeoutCheck (s := { s with idleCnt := satInc s.idleCnt }) h
  · exact h

theorem framerInv_writeCtrl (v : Word) {s : State} (h : FramerInv s) : FramerInv (writeCtrl v s) := by
  unfold writeCtrl
  split_ifs
  · exact framerInv_of_boundary rfl
  · exact framerInv_endEvent (s := { s with en := v.getLsbD 0, strict := v.getLsbD 1 }) h
  · exact h

theorem framerInv_writeReg (r : Reg) (v : Word) {s : State} (h : FramerInv s) : FramerInv (writeReg r v s) := by
  cases r with
  | ctrl => exact framerInv_writeCtrl v h
  | idleLimit => exact framerInv_timeoutCheck (s := { s with idleLimit := v }) h
  | _ => exact h

theorem framerInv_csrWriteEvent (offset : Byte) (v : Word) {s : State} (h : FramerInv s) :
    FramerInv (csrWriteEvent offset v s) := by
  have hwrite : FramerInv (writeOffset offset v s) := by
    unfold writeOffset
    cases regAt offset with
    | none => exact h
    | some r => exact framerInv_writeReg r v h
  unfold csrWriteEvent
  split_ifs
  · exact hwrite
  · exact h

theorem framerInv_csrReadEvent (offset : Byte) {s : State} (h : FramerInv s) : FramerInv (csrReadEvent offset s) := by
  unfold csrReadEvent
  split_ifs <;> exact h

theorem outPopEvent_field (s : State) : (outPopEvent s).field = s.field := by
  unfold outPopEvent
  split_ifs <;> rfl

theorem finalizeEvent_field (s : State) : (finalizeEvent s).field = s.field := by
  rcases finalizeEvent_cases s with ⟨o, he⟩ | he | ⟨-, he⟩ <;> rw [he] <;> rfl

end Sys2Proof.Machine

namespace Sys2Proof.Proofs

open Sys2Proof.Machine Sys2Proof.Safety

/-- Settles O54: a byte leads from one of the framer's states to the next (`framing_fieldRule`), an end event closes the framer,
and outside RECEIVING the framer stands at a packet boundary. -/
theorem stepKeepsTheFramerInvariant : Obligations.StepKeepsTheFramerInvariant :=
  fun _ _ hs ht => step_keeps (P := FramerInv)
    (fun _ _ _ _ _ h => h)
    (fun _ _ _ h ht => framerInv_byteInEvent h ht)
    (fun _ h => framerInv_tickEvent h)
    (fun _ h => framerInv_endEvent h)
    (fun offset _ h => framerInv_csrReadEvent offset h)
    (fun offset v _ h => framerInv_csrWriteEvent offset v h)
    (fun s h hemit => framerInv_of_boundary ((outPopEvent_field s).trans (boundary_of_framerInv h (by simp [hemit]))))
    (fun _ _ => framerInv_of_boundary rfl)
    (fun s h hfin => framerInv_of_boundary ((finalizeEvent_field s).trans (boundary_of_framerInv h (by simp [hfin]))))
    hs ht

end Sys2Proof.Proofs
end

section
/-! Proofs about the commands (41_commands.md): what each of them completes with, where it aborts, and the frame that all commands
and codes share. -/

namespace Sys2Proof.Machine

open Sys2Proof.Safety

/-! ### The append and the abort, field by field -/

/-- STORE_USED as a number: the append counts the bytes it adds (41_commands.md R222). -/
theorem storeUsed_add_length (used : Word) (n : Nat) : used + BitVec.ofNat 32 n = BitVec.ofNat 32 (used.toNat + n) := by
  rw [BitVec.ofNat_add, BitVec.ofNat_toNat, BitVec.setWidth_eq]

/-- append(d) with its counters as numbers (41_commands.md R222). -/
theorem appendVram_eq (d : List Byte) (s : State) :
    appendVram d s =
      { s with
        vram := s.vram ++ d
        vramLen := BitVec.ofNat 32 (s.vram ++ d).length
        storeUsed := BitVec.ofNat 32 (s.storeUsed.toNat + d.length) } := by
  rw [appendVram, storeUsed_add_length, List.length_append]

/-- FILL.RAW where its payload does not fit the store (41_commands.md R226). -/
theorem exec_fillRaw_of_full {payload : List Byte} {s : State}
    (h : s.params.storeBytes.toNat < s.storeUsed.toNat + payload.length) :
    exec (.fillRaw payload) s = .next (raiseFatal .overflow 4#32 s) :=
  (exec_fillRaw payload s).trans (congrArg _ (storeAppend_of_full h))

/-- FILL.RLE where its output does not fit the store: RLE_BAD is written before the check (41_commands.md R225, R226). -/
theorem exec_fillRle_of_full {payload : List Byte} {s : State}
    (h : s.params.storeBytes.toNat < s.storeUsed.toNat + (decompress payload).1.length) (comp : Byte) :
    exec (.fillRle comp payload) s =
      .next (raiseFatal .overflow 4#32 { s with rleBad := s.rleBad || (decompress payload).2, rle := RleUnit.empty }) :=
  (exec_fillRle comp payload s).trans (congrArg _ (storeAppend_of_full h))

/-- PRINT at MAX_PARTS (41_commands.md R228). -/
theorem exec_print_of_full {s : State} (h : s.partCnt = s.params.maxParts) (comp : Byte) (payload : List Byte) :
    exec (.print comp payload) s = .next (raiseFatal .overflow 2#32 s) :=
  if_pos h

/-- A CMD that names no command of its own is OTHER (30_encoding.md R152). -/
theorem decodeCommand_of_unnamed {cmd : Byte} (h : cmd ∉ [0x01#8, 0x02#8, 0x04#8, 0x0F#8]) (comp : Byte) (payload : List Byte) :
    decodeCommand cmd comp payload = .other cmd comp payload := by
  simp only [List.mem_cons, List.not_mem_nil, or_false, not_or] at h
  obtain ⟨hinit : cmd ≠ Config.cmdInit, hprint : cmd ≠ Config.cmdPrint, hfill : cmd ≠ Config.cmdFill,
    hstatus : cmd ≠ Config.cmdStatus⟩ := h
  rw [decodeCommand, if_neg hinit, if_neg hprint, if_neg hfill, if_neg hstatus]

/-! ### The frame of every command and code (41_commands.md R220, 10_state.md R39) -/

/-- `s` with the fields that a command writes taken from `m`: the session memories, their counters, RLE_BAD and the working
variables of the decompressor. -/
def takeMemories (m s : State) : State :=
  { s with
    vram := m.vram, parts := m.parts, rleBad := m.rleBad, partCnt := m.partCnt, rowsAcc := m.rowsAcc, vramLen := m.vramLen
    storeUsed := m.storeUsed, rle := m.rle }

/-- `t` is `s` with other session memories, or the abort raised in such a state. -/
def MemoriesOrAbort (s t : State) : Prop :=
  ∃ m, t = takeMemories m s ∨ ∃ info, t = raiseFatal .overflow info (takeMemories m s)

/-- Both FILLs: after any update of the session memories, the append or the abort. -/
theorem storeAppend_memoriesOrAbort (d : List Byte) (m s : State) :
    MemoriesOrAbort s (storeAppend d (takeMemories m s)) := by
  rcases storeAppend_cases d (takeMemories m s) with ⟨-, happend⟩ | ⟨-, habort⟩
  · exact ⟨appendVram d m, .inl happend⟩
  · exact ⟨m, .inr ⟨4#32, habort⟩⟩

/-- A command or code writes session memories, and everything else only by the abort. -/
theorem exec_memoriesOrAbort {i : Instr} {s t : State} (h : exec i s = .next t) : MemoriesOrAbort s t := by
  rcases exec_cases h with ⟨_, _, -, hinit⟩ | ⟨_, _, -, -, habort⟩ | ⟨_, _, -, -, hprint⟩ | ⟨payload, -, hraw⟩ |
    ⟨_, _, u, -, -, hrle⟩ | ⟨_, _, -, hstatus⟩ | ⟨_, _, _, -, hother⟩ | ⟨_, -, hcode⟩
  · exact ⟨t, .inl (by rw [hinit]; rfl)⟩
  · exact ⟨s, .inr ⟨2#32, habort⟩⟩
  · exact ⟨t, .inl (by rw [hprint]; rfl)⟩
  · exact hraw ▸ storeAppend_memoriesOrAbort payload s s
  · exact hrle ▸ storeAppend_memoriesOrAbort u.out { s with rleBad := s.rleBad || u.bad, rle := RleUnit.empty } s
  · exact ⟨s, .inl hstatus⟩
  · exact ⟨s, .inl hother⟩
  · exact ⟨t, .inl (by rw [hcode]; rfl)⟩

end Sys2Proof.Machine

namespace Sys2Proof.Proofs

open Sys2Proof.Machine

/-- Settles O7: FILL.RLE is the append of the decompression read as numbers (`exec_fillRle`), which fits. -/
theorem fillRleAppendsDecompressedPayload : Obligations.FillRleAppendsDecompressedPayload := by
  intro comp payload s hfit
  rw [exec_fillRle_of_fits hfit, appendVram_eq]

/-- Settles O12: where the output does not fit, both FILLs take the abort; FILL.RLE has written RLE_BAD before it. -/
theorem fillBeyondStoreAborts : Obligations.FillBeyondStoreAborts :=
  fun comp _ _ => ⟨fun hfull => exec_fillRaw_of_full hfull, fun hfull => exec_fillRle_of_full hfull comp⟩

/-- Settles O14: a command or code is an update of the session memories (`exec_memoriesOrAbort`), and the abort writes the
framer cursor, FATAL_KIND, FAULT_INFO, EVENTS and PBUF besides. -/
theorem commandsChangeOnlySessionMemories : Obligations.CommandsChangeOnlySessionMemories := by
  intro i s t h
  obtain ⟨m, rfl | ⟨info, rfl⟩⟩ := exec_memoriesOrAbort h
  · refine ⟨?_, ?_, ?_, ?_, .inl ?_⟩ <;> simp [takeMemories]
  · refine ⟨?_, ?_, ?_, ?_, .inr ?_⟩ <;> simp [takeMemories, evFatal]

/-- Settles O5: INIT's encoding and its equation (41_commands.md R221). -/
theorem initEmptiesVramOnly : Obligations.InitEmptiesVramOnly :=
  fun comp payload s => ⟨rfl, exec_init comp payload s⟩

/-- Settles O6: FILL.RAW is the append of its payload, which fits. -/
theorem fillRawAppendsPayload : Obligations.FillRawAppendsPayload := by
  intro payload s hfit
  rw [exec_fillRaw_of_fits hfit, appendVram_eq]

/-- Settles O8: PRINT's equation below MAX_PARTS; ROWS_ACC is `addRows`, a sum of numbers where it fits 32 bits. -/
theorem printRecordsPart : Obligations.PrintRecordsPart :=
  fun comp payload s hroom =>
    ⟨addRows s.rowsAcc (tileRows s.vram), exec_print_of_room hroom comp payload, fun hsum => addRows_toNat hsum⟩

/-- Settles O9: the dispatch selects STATUS and OTHER by CMD, and their meaning is no change. -/
theorem statusAndOtherChangeNothing : Obligations.StatusAndOtherChangeNothing :=
  fun cmd comp payload s =>
    ⟨rfl, fun hcmd => decodeCommand_of_unnamed hcmd comp payload, exec_status comp payload s, exec_other cmd comp payload s⟩

/-- Settles O13: at MAX_PARTS the part-count check raises the abort before anything is recorded. -/
theorem printBeyondPartLimitAborts : Obligations.PrintBeyondPartLimitAborts :=
  fun comp payload _ hfull => exec_print_of_full hfull comp payload

end Sys2Proof.Proofs
end

section
/-! Proofs about the decompressor (42_rle.md): what each code outputs, whole codes back to their bytes, and the bound on the
output. -/

namespace Sys2Proof.Machine

open Sys2Proof.Safety

/-! ### The codes as instructions (42_rle.md R241, R243) -/

/-- A RUN with its value byte (R241). -/
theorem exec_rleRun_of_value (n : BitVec 7) (v : Byte) (s : State) :
    exec (.rleRun n (some v)) s =
      .next { s with rle := { s.rle with out := s.rle.out ++ List.replicate (n.toNat + 2) v } } := rfl

/-- A RUN at the payload's end, without a value byte (R243). -/
theorem exec_rleRun_of_no_value (n : BitVec 7) (s : State) :
    exec (.rleRun n none) s = .next { s with rle := { s.rle with bad := true } } := rfl

/-! ### One round of `decompressFrom` (42_rle.md R240 to R244) -/

theorem decompressFrom_nil (fuel : Nat) (d : List Byte) : decompressFrom fuel [] d = (d, false) := by
  cases fuel <;> rfl

theorem decompressFrom_run_nil {c : Byte} (hc : 128 ≤ c.toNat) (fuel : Nat) (d : List Byte) :
    decompressFrom (fuel + 1) [c] d = (d, true) :=
  if_pos hc

theorem decompressFrom_run_cons {c : Byte} (hc : 128 ≤ c.toNat) (fuel : Nat) (v : Byte) (tail d : List Byte) :
    decompressFrom (fuel + 1) (c :: v :: tail) d =
      decompressFrom fuel tail (d ++ List.replicate (c.toNat - 128 + 2) v) :=
  if_pos hc

theorem decompressFrom_lit_of_cut {c : Byte} {rest : List Byte} (hc : ¬ 128 ≤ c.toNat) (hcut : rest.length < c.toNat + 1)
    (fuel : Nat) (d : List Byte) : decompressFrom (fuel + 1) (c :: rest) d = (d ++ rest, true) :=
  (if_neg hc).trans (if_pos hcut)

theorem decompressFrom_lit_of_whole {c : Byte} {rest : List Byte} (hc : ¬ 128 ≤ c.toNat) (hwhole : ¬ rest.length < c.toNat + 1)
    (fuel : Nat) (d : List Byte) :
    decompressFrom (fuel + 1) (c :: rest) d =
      decompressFrom fuel (rest.drop (c.toNat + 1)) (d ++ rest.take (c.toNat + 1)) :=
  (if_neg hc).trans (if_neg hwhole)

/-! ### Whole codes decompress to their bytes (42_rle.md R246) -/

/-- One round takes the bytes of a whole code and outputs what the code stands for. -/
theorem decompressFrom_encode_append {i : Instr} (hset : i.codeSet = .rle) (hwhole : i.complete = true) (fuel : Nat)
    (rest d : List Byte) :
    decompressFrom (fuel + 1) (encode i ++ rest) d = decompressFrom fuel rest (d ++ codeOutput i) := by
  cases i with
  | rleRun n v =>
    obtain ⟨b, rfl⟩ := Option.isSome_iff_exists.1 hwhole
    have hlen : (1#1 ++ n : Byte).toNat - 128 + 2 = n.toNat + 2 := by rw [runByte_toNat]; omega
    exact (decompressFrom_run_cons (by rw [runByte_toNat]; omega) fuel b rest d).trans (by rw [hlen, codeOutput])
  | rleLit n bytes =>
    have hlen : bytes.length = (0#1 ++ n : Byte).toNat + 1 := by rw [litByte_toNat]; exact of_decide_eq_true hwhole
    have hlit : ¬ 128 ≤ (0#1 ++ n : Byte).toNat := by rw [litByte_toNat]; omega
    refine (decompressFrom_lit_of_whole (rest := bytes ++ rest) hlit (by rw [List.length_append]; omega) fuel d).trans ?_
    rw [List.take_left' hlen, List.drop_left' hlen, codeOutput]
  | _ => cases hset

/-- An RLE code has at least its control byte. -/
theorem encode_length_pos {i : Instr} (hset : i.codeSet = .rle) : 1 ≤ (encode i).length := by
  cases i with
  | rleRun _ _ => exact Nat.le_add_left 1 _
  | rleLit _ _ => exact Nat.le_add_left 1 _
  | _ => cases hset

/-- Fuel for every code's bytes is enough, so the output is that of all codes, and bad stays clear. -/
theorem decompressFrom_flatMap_encode {codes : List Instr} (hcodes : ∀ i ∈ codes, i.codeSet = .rle ∧ i.complete = true)
    {fuel : Nat} (hfuel : (codes.flatMap encode).length ≤ fuel) (d : List Byte) :
    decompressFrom fuel (codes.flatMap encode) d = (d ++ codes.flatMap codeOutput, false) := by
  induction codes generalizing fuel d with
  | nil => rw [List.flatMap_nil, decompressFrom_nil, List.flatMap_nil, List.append_nil]
  | cons i codes ih =>
    obtain ⟨⟨hset, hwhole⟩, htail⟩ := List.forall_mem_cons.1 hcodes
    have hpos := encode_length_pos hset
    rw [List.flatMap_cons, List.length_append] at hfuel
    obtain ⟨fuel, rfl⟩ : ∃ k, fuel = k + 1 := ⟨fuel - 1, by omega⟩
    rw [List.flatMap_cons, decompressFrom_encode_append hset hwhole, ih htail (by omega), List.flatMap_cons,
      List.append_assoc]

theorem decompress_flatMap_encode {codes : List Instr} (hcodes : ∀ i ∈ codes, i.codeSet = .rle ∧ i.complete = true) :
    decompress (codes.flatMap encode) = (codes.flatMap codeOutput, false) :=
  decompressFrom_flatMap_encode hcodes le_rfl []

/-! ### The bound on the output (42_rle.md R245) -/

/-- 129 x ceil(n / 2), the bound of R245 for a payload of n bytes. -/
def outputBound (n : Nat) : Nat := 129 * ((n + 1) / 2)

/-- The longest run, of 129 bytes, takes two bytes of the payload; a literal span outputs less than it takes. -/
theorem decompressFrom_length_le (fuel : Nat) (payload d : List Byte) :
    (decompressFrom fuel payload d).1.length ≤ d.length + outputBound payload.length := by
  induction fuel generalizing payload d with
  | zero => exact Nat.le_add_right _ _
  | succ fuel ih =>
    cases payload with
    | nil => exact Nat.le_add_right _ _
    | cons c rest =>
      have hbyte := c.isLt
      by_cases hc : 128 ≤ c.toNat
      · cases rest with
        | nil => rw [decompressFrom_run_nil hc]; exact Nat.le_add_right _ _
        | cons v tail =>
          have hrun := ih tail (d ++ List.replicate (c.toNat - 128 + 2) v)
          rw [decompressFrom_run_cons hc]
          simp only [outputBound, List.length_append, List.length_replicate, List.length_cons] at hrun ⊢
          omega
      · by_cases hcut : rest.length < c.toNat + 1
        · rw [decompressFrom_lit_of_cut hc hcut]
          simp only [outputBound, List.length_append, List.length_cons]
          omega
        · have hlit := ih (rest.drop (c.toNat + 1)) (d ++ rest.take (c.toNat + 1))
          rw [decompressFrom_lit_of_whole hc hcut]
          simp only [outputBound, List.length_append, List.length_take, List.length_drop, List.length_cons] at hlit ⊢
          omega

theorem decompress_length_le (payload : List Byte) : (decompress payload).1.length ≤ outputBound payload.length :=
  (decompressFrom_length_le payload.length payload []).trans_eq (Nat.zero_add _)

/-! ### The append's lengths (41_commands.md R222) -/

/-- The append or the abort: VRAM grows by no more than the data. -/
theorem storeAppend_vram_length_le (d : List Byte) (s : State) :
    (storeAppend d s).vram.length ≤ s.vram.length + d.length := by
  rcases storeAppend_cases d s with ⟨-, happend⟩ | ⟨-, habort⟩
  · rw [happend, appendVram_vram, List.length_append]
  · rw [habort, raiseFatal_vram]
    exact Nat.zero_le _

/-- STORE_USED does not wrap where the data fits the store. -/
theorem appendVram_storeUsed_toNat {d : List Byte} {s : State}
    (hfit : s.storeUsed.toNat + d.length ≤ s.params.storeBytes.toNat) :
    (appendVram d s).storeUsed.toNat = s.storeUsed.toNat + d.length := by
  have hcap := s.params.storeBytes.isLt
  rw [appendVram_storeUsed, storeUsed_add_length, BitVec.toNat_ofNat, Nat.mod_eq_of_lt (by omega)]

end Sys2Proof.Machine

namespace Sys2Proof.Proofs

open Sys2Proof.Machine Sys2Proof.Safety

/-- Settles O16: the payload decompresses to the bytes of its codes with bad clear (`decompress_flatMap_encode`), and they fit
the store. -/
theorem rleCodesDecompressToTheirBytes : Obligations.RleCodesDecompressToTheirBytes := by
  intro comp codes s hcodes hfit
  have hdec := decompress_flatMap_encode fun i hi =>
    have ⟨hset, _, hwhole⟩ := hcodes i hi
    ⟨hset, hwhole⟩
  have hexec := exec_fillRle_of_fits (s := s) (payload := codes.flatMap encode) (by rwa [hdec]) comp
  rw [hdec] at hexec
  exact ⟨_, hexec, rfl, Bool.or_false _, appendVram_storeUsed_toNat hfit⟩

/-- Settles O17: the decompressor's output is within the bound (`decompress_length_le`), and FILL.RLE appends it or aborts; with
that much room it fits. -/
theorem decompressedLengthIsBounded : Obligations.DecompressedLengthIsBounded := by
  intro comp payload s
  have hbound := decompress_length_le payload
  refine ⟨⟨_, runDecompressor_eq_decompress payload s, hbound⟩, fun t h => ?grows, fun hroom => ?completes⟩
  case grows =>
    cases (exec_fillRle comp payload s).symm.trans h
    exact (storeAppend_vram_length_le _ _).trans (Nat.add_le_add_left hbound _)
  case completes =>
    have hfit := (Nat.add_le_add_left hbound s.storeUsed.toNat).trans hroom
    exact ⟨_, exec_fillRle_of_fits hfit comp, rfl, rfl, List.take_left,
      (appendVram_storeUsed_toNat hfit).trans_le (Nat.add_le_add_left hbound _)⟩

/-- Settles O10: the two forms of a RUN. -/
theorem runRepeatsItsValue : Obligations.RunRepeatsItsValue :=
  fun n v s => ⟨exec_rleRun_of_value n v s, exec_rleRun_of_no_value n s⟩

/-- Settles O11: a LIT is `execRleLit`, whose span is whole or cut. -/
theorem literalSpanIsCopied : Obligations.LiteralSpanIsCopied :=
  fun _ _ s => ⟨fun hwhole => execRleLit_of_whole hwhole s, fun hcut => execRleLit_of_cut hcut s⟩

end Sys2Proof.Proofs
end

section
/-! Proofs about the compositor (43_compositor.md): a pixel's index and colour as numbers, and the walk over parts, strips, lines
and tiles as the cell form. -/

namespace Sys2Proof.Machine

open Sys2Proof.Safety

/-! ### A pixel as a number (43_compositor.md R266, R267) -/

theorem ofBool_getLsbD_toNat (b : Byte) (k : Nat) : (BitVec.ofBool (b.getLsbD k)).toNat = bitOf b.toNat k := by
  rw [BitVec.toNat_ofBool, BitVec.getLsbD, Nat.toNat_testBit, bitOf]

theorem rawIndex_toNat (lo hi : Byte) (p : Nat) :
    (rawIndex lo hi p).toNat = bitOf lo.toNat (7 - p) + 2 * bitOf hi.toNat (7 - p) := by
  have hlow : bitOf lo.toNat (7 - p) < 2 ^ 1 := Nat.mod_lt _ Nat.two_pos
  rw [rawIndex, BitVec.toNat_append, ofBool_getLsbD_toNat, ofBool_getLsbD_toNat, ← Nat.shiftLeft_add_eq_or_of_lt hlow,
    Nat.shiftLeft_eq]
  omega

/-- The lookup's subtraction does not wrap: a colour field is at most 3. -/
theorem paletteLookup_toNat (pal : Byte) (r : Stored) : (paletteLookup pal r).toNat = 3 - pal.toNat / 4 ^ r.toNat % 4 := by
  have hfield : (pal.extractLsb' (2 * r.toNat) 2).toNat = pal.toNat / 4 ^ r.toNat % 4 := by
    rw [BitVec.extractLsb'_toNat, Nat.shiftRight_eq_div_pow, Nat.pow_mul]
  have hle : pal.extractLsb' (2 * r.toNat) 2 ≤ 3#2 := by
    rw [BitVec.le_def, hfield]
    exact Nat.le_of_lt_succ (Nat.mod_lt _ (by decide))
  rw [paletteLookup, BitVec.toNat_sub_of_le hle, hfield]
  rfl

theorem pixelOf_toNat (part : ImagePart) (g x t p : Nat) : (pixelOf part g x t p).toNat = pixelValue part g x t p := by
  rw [pixelOf, paletteLookup_toNat, rawIndex_toNat]
  rfl

/-! ### The walk's nested loops as one (43_compositor.md R263, R268) -/

/-- Two nested loops, the inner of `n` rounds, are one loop over the quotient and the remainder by `n`. -/
theorem flatMap_range_map_range {α : Type} {n : Nat} (hn : 0 < n) (f : Nat → Nat → α) (m : Nat) :
    ((List.range m).flatMap fun i => (List.range n).map fun j => f i j) =
      (List.range (n * m)).map fun k => f (k / n) (k % n) := by
  induction m with
  | zero => rfl
  | succ m ih =>
    have hround : ∀ j ∈ List.range n, f m j = f ((n * m + j) / n) ((n * m + j) % n) := fun j hj => by
      have hlt := List.mem_range.1 hj
      rw [Nat.mul_add_div hn, Nat.div_eq_of_lt hlt, Nat.mul_add_mod, Nat.mod_eq_of_lt hlt, Nat.add_zero]
    rw [List.range_succ, List.flatMap_append, ih, List.flatMap_singleton, List.map_congr_left hround, Nat.mul_succ,
      List.range_add, List.map_append, List.map_map]
    rfl

/-- A strip's row column by column: column x is pixel x mod 8 of tile x / 8. -/
theorem stripRow_eq_map (part : ImagePart) (g t : Nat) :
    stripRow part g t = (List.range 160).map fun x => pixelOf part g (x / 8) t (x % 8) :=
  flatMap_range_map_range (n := 8) (by decide) (fun x p => pixelOf part g x t p) 20

/-- A part's rows one by one: row y is line y mod 8 of strip y / 8. -/
theorem partRows_eq_map (part : ImagePart) :
    partRows part = (List.range (8 * stripCount part.tiles)).map fun y => stripRow part (y / 8) (y % 8) :=
  flatMap_range_map_range (n := 8) (by decide) (stripRow part) _

theorem stripRow_getElem?_toNat (part : ImagePart) (g t : Nat) {x : Nat} (hx : x < 160) :
    (stripRow part g t)[x]?.map BitVec.toNat = some (pixelValue part g (x / 8) t (x % 8)) := by
  rw [stripRow_eq_map, List.getElem?_map, List.getElem?_range hx, Option.map_some, Option.map_some, pixelOf_toNat]

theorem partRows_getElem? (part : ImagePart) {y : Nat} (hy : y < 8 * stripCount part.tiles) :
    (partRows part)[y]? = some (stripRow part (y / 8) (y % 8)) := by
  rw [partRows_eq_map, List.getElem?_map, List.getElem?_range hy, Option.map_some]

/-! ### The cell form (43_compositor.md R270) -/

theorem cellValue_cons_of_lt {part : ImagePart} {g : Nat} (h : g < stripCount part.tiles) (parts : List ImagePart) (x t : Nat) :
    cellValue (part :: parts) g x t = some (pixelValue part g (x / 8) t (x % 8)) :=
  if_pos h

theorem cellValue_cons_of_le {part : ImagePart} {g : Nat} (h : stripCount part.tiles ≤ g) (parts : List ImagePart) (x t : Nat) :
    cellValue (part :: parts) g x t = cellValue parts (g - stripCount part.tiles) x t :=
  if_neg (Nat.not_lt.2 h)

/-- The strips of all parts, stacked: a row is in the first part's strips, or that many strips further up in the rest. -/
theorem cell_of_stacked_row {x : Nat} (hx : x < 160) {row : List Stored} (parts : List ImagePart) {y : Nat}
    (hrow : (parts.flatMap partRows)[y]? = some row) : row[x]?.map BitVec.toNat = cellValue parts (y / 8) x (y % 8) := by
  induction parts generalizing y with
  | nil => cases hrow
  | cons part parts ih =>
    rw [List.flatMap_cons] at hrow
    rcases Nat.lt_or_ge y (8 * stripCount part.tiles) with hin | hpast
    · rw [List.getElem?_append_left (by rwa [length_partRows]), partRows_getElem? part hin] at hrow
      cases hrow
      rw [stripRow_getElem?_toNat part _ _ hx, cellValue_cons_of_lt (by omega)]
    · rw [List.getElem?_append_right (by rwa [length_partRows]), length_partRows] at hrow
      have hstrip : (y - 8 * stripCount part.tiles) / 8 = y / 8 - stripCount part.tiles := by omega
      have hline : (y - 8 * stripCount part.tiles) % 8 = y % 8 := by omega
      rw [ih hrow, hstrip, hline, cellValue_cons_of_le (by omega)]

end Sys2Proof.Machine

namespace Sys2Proof.Proofs

open Sys2Proof.Machine

/-- Settles O46: a raster's rows are the first h of the stacked strips, whose cells are the cell form's. -/
theorem rasterCellsHaveTheCellFormsValues : Obligations.RasterCellsHaveTheCellFormsValues := by
  intro parts h x y row hx hrow
  rw [compose, List.getElem?_take, Option.ite_none_right_eq_some] at hrow
  obtain ⟨hy, hstacked⟩ := hrow
  exact ⟨hy, cell_of_stacked_row hx parts hstacked⟩

/-- Settles O47: the coverage (`length_compose`) where ROWS_ACC is the sum itself, and the width of every row. -/
theorem rasterIsCoveredExactly : Obligations.RasterIsCoveredExactly :=
  fun _ _ hsum => ⟨length_compose hsum.le, fun _ => length_of_mem_compose⟩

/-- Settles O45: `rawIndex_toNat` needs no bound on the pixel, `paletteLookup_toNat` is the second half. -/
theorem pixelDecodeAndPaletteAsNumbers : Obligations.PixelDecodeAndPaletteAsNumbers :=
  ⟨fun lo hi p _ => rawIndex_toNat lo hi p, paletteLookup_toNat⟩

end Sys2Proof.Proofs
end

section
/-! Proofs about the PNG (44_png.md): its checksums, its length, what another compressor changes, and its being read back. -/

namespace Sys2Proof.Machine

open Sys2Proof.Safety

/-! ### CRC-32 (44_png.md R301, R302) -/

/-- The register takes a sequence in pieces. -/
theorem crcFeed_append (c : Word) (first second : List Byte) :
    crcFeed c (first ++ second) = crcFeed (crcFeed c first) second := by
  induction first generalizing c with
  | nil => rfl
  | cons d first ih => exact ih (crcByte c d)

theorem crc32_append (type data : List Byte) :
    crc32 (type ++ data) = crcFeed (crcFeed 0xFFFFFFFF#32 type) data ^^^ 0xFFFFFFFF#32 := by
  rw [crc32, crcFeed_append]

theorem crc32_typeIend : crc32 typeIend = 0xAE426082#32 := by decide +kernel

/-! ### The parts of a PNG (44_png.md R303 to R309) -/

/-- What precedes the IDAT chunk: it depends on the height alone. -/
def pngFront (h : Nat) : List Byte := pngSignature ++ chunk typeIhdr (ihdrData h) ++ chunk typePlte plteData

/-- The IEND chunk (44_png.md R308): it has no data, so its CRC is the type's. -/
theorem chunk_typeIend :
    chunk typeIend [] =
      [0#8, 0#8, 0#8, 0#8, 0x49#8, 0x45#8, 0x4E#8, 0x44#8, 0xAE#8, 0x42#8, 0x60#8, 0x82#8] := by
  rw [chunk, List.append_nil, List.append_nil, crc32_typeIend]
  rfl

theorem pngBytes_eq_front (p : Config.Params) (h : Nat) (rows : List (List Stored)) :
    pngBytes p h rows = pngFront h ++ chunk typeIdat (zlibStream p (scanlines rows))
      ++ [0#8, 0#8, 0#8, 0#8, 0x49#8, 0x45#8, 0x4E#8, 0x44#8, 0xAE#8, 0x42#8, 0x60#8, 0x82#8] := by
  rw [pngBytes, chunk_typeIend, pngFront]

/-- Four entries of three bytes, 85k each (44_png.md R306). -/
theorem plteData_eq :
    plteData = [0#8, 0#8, 0#8, 85#8, 85#8, 85#8, 170#8, 170#8, 170#8, 255#8, 255#8, 255#8] := rfl

/-! ### The zlib stream (44_png.md R293, R300) -/

theorem zlibStream_of_stored {p : Config.Params} (hp : p.deflate = .stored) (r : List Byte) :
    zlibStream p r = zlibStored p.storedBlockMax.toNat r := by
  rw [zlibStream, hp]

theorem zlibStream_of_other {p : Config.Params} {which : Nat} (hp : p.deflate = .other which) (r : List Byte) :
    zlibStream p r = otherStream which r := by
  rw [zlibStream, hp]

/-- Every DEFLATE_IMPL's stream decompresses to its input. -/
theorem zlibDecompress_zlibStream {p : Config.Params} (hp : p.deflate = .stored → p.storedBlockMax ≠ 0#16) {r : List Byte}
    (hr : r ≠ []) : zlibDecompress (zlibStream p r) = some r := by
  cases himpl : p.deflate with
  | stored =>
    have hblock : 0 < p.storedBlockMax.toNat := Nat.pos_of_ne_zero fun h0 => hp himpl (BitVec.eq_of_toNat_eq h0)
    rw [zlibStream_of_stored himpl]
    exact zlibDecompress_zlibStored hblock p.storedBlockMax.isLt hr
  | other which =>
    rw [zlibStream_of_other himpl]
    exact zlibDecompress_otherStream which r

/-! ### The decoder reads what the builder writes (44_png.md R312) -/

theorem readBe32_be32_append (w : Word) (rest : List Byte) : readBe32 (be32 w ++ rest) = some (w.toNat, rest) := by
  have hlt := w.isLt
  simp only [be32, List.cons_append, List.nil_append, readBe32, BitVec.extractLsb'_toNat, Nat.shiftRight_eq_div_pow,
    Option.some.injEq, Prod.mk.injEq, and_true]
  omega

theorem readChunk_chunk_append {type data : List Byte} (htype : type.length = 4) (hdata : data.length < 4294967296)
    (rest : List Byte) : readChunk (chunk type data ++ rest) = some (type, data, rest) := by
  have hlen : (BitVec.ofNat 32 data.length).toNat = data.length := Nat.mod_eq_of_lt hdata
  have hbytes : chunk type data ++ rest =
      be32 (BitVec.ofNat 32 data.length) ++ (type ++ (data ++ (be32 (crc32 (type ++ data)) ++ rest))) := by
    simp only [chunk, List.append_assoc]
  have hcrc : (type ++ (data ++ (be32 (crc32 (type ++ data)) ++ rest))).drop (4 + data.length) =
      be32 (crc32 (type ++ data)) ++ rest := by
    rw [← List.drop_drop, List.drop_left' htype, List.drop_left]
  simp only [readChunk, hbytes, readBe32_be32_append, hlen, hcrc, List.take_left' htype, List.drop_left' htype,
    List.take_left, and_self, if_true]

theorem scanlines_cons (row : List Stored) (rows : List (List Stored)) :
    scanlines (row :: rows) = 0#8 :: (row.map (fun v => v.setWidth 8) ++ scanlines rows) := rfl

theorem readScanlines_scanlines {w : Nat} {rows : List (List Stored)} (hrows : ∀ row ∈ rows, row.length = w) :
    readScanlines w rows.length (scanlines rows) = some (rows.map fun row => row.map fun v => v.setWidth 8) := by
  induction rows with
  | nil => rfl
  | cons row rows ih =>
    obtain ⟨hrow, hrest⟩ := List.forall_mem_cons.1 hrows
    have hwidth : (row.map fun v => v.setWidth 8).length = w := by rw [List.length_map, hrow]
    have hfits : w ≤ ((row.map fun v => v.setWidth 8) ++ scanlines rows).length := by
      rw [List.length_append, hwidth]
      exact Nat.le_add_right _ _
    simp only [scanlines_cons, List.length_cons, readScanlines, hfits, and_self, if_true, List.drop_left' hwidth, ih hrest,
      List.take_left' hwidth, List.map_cons]

theorem readBe32_ihdrData_width (h : Nat) :
    readBe32 (ihdrData h) = some (160, be32 (heightWord h) ++ [0x08#8, 0x03#8, 0x00#8, 0x00#8, 0x00#8]) := by
  rw [ihdrData, List.append_assoc, readBe32_be32_append]
  rfl

/-- The height in IHDR is the image's, where it fits in 32 bits (log entry 7). -/
theorem readBe32_ihdrData_height {h : Nat} (hh : h < 4294967296) :
    readBe32 ((ihdrData h).drop 4) = some (h, [0x08#8, 0x03#8, 0x00#8, 0x00#8, 0x00#8]) := by
  rw [ihdrData, List.append_assoc, List.drop_left' (length_be32 _), readBe32_be32_append, heightWord, if_pos hh,
    BitVec.toNat_ofNat, Nat.mod_eq_of_lt hh]

/-- The decoder's answer on a PNG of the model, by what it makes of the IDAT data. -/
theorem readPng_pngBytes {p : Config.Params} {h : Nat} {rows : List (List Stored)} {raw : List Byte} {indices : List (List Byte)}
    (hh : h < 4294967296) (hidat : (zlibStream p (scanlines rows)).length < 4294967296)
    (hraw : zlibDecompress (zlibStream p (scanlines rows)) = some raw) (hindices : readScanlines 160 h raw = some indices) :
    readPng (pngBytes p h rows) = some { width := 160, height := h, palette := plteData, rows := indices } := by
  have hsignature : (pngBytes p h rows).take 8 = pngSignature := by
    simp only [pngBytes, List.append_assoc]
    exact List.take_left' rfl
  have hchunks : (pngBytes p h rows).drop 8 = chunk typeIhdr (ihdrData h) ++ (chunk typePlte plteData
      ++ (chunk typeIdat (zlibStream p (scanlines rows)) ++ chunk typeIend [])) := by
    simp only [pngBytes, List.append_assoc]
    exact List.drop_left' rfl
  have hihdr := readChunk_chunk_append (type := typeIhdr) (data := ihdrData h) rfl (by decide : 13 < 4294967296)
  have hplte := readChunk_chunk_append (type := typePlte) (data := plteData) rfl (by decide : 12 < 4294967296)
  have hiend : readChunk (chunk typeIend []) = some (typeIend, [], []) := by
    simpa using readChunk_chunk_append (type := typeIend) (data := []) rfl (by decide) []
  simp only [readPng, hsignature, pngSignature, ne_eq, not_true_eq_false, if_false, hchunks, hihdr, hplte,
    readChunk_chunk_append (type := typeIdat) rfl hidat]
  rw [if_pos ⟨rfl, rfl, rfl, hiend, rfl, rfl⟩]
  simp only [readBe32_ihdrData_width, readBe32_ihdrData_height hh, hraw, hindices]

end Sys2Proof.Machine

namespace Sys2Proof.Proofs

open Sys2Proof.Machine

/-- Settles O49: the chunks, the zlib stream (`zlibDecompress_zlibStream`) and the scanlines (`readScanlines_scanlines`) are each
read back. A raster with a row has scanline bytes, which the STORED compressor needs (44_png.md R296). -/
theorem pngReadsBackAsTheRaster : Obligations.PngReadsBackAsTheRaster := by
  rintro p h rows hblock rfl hpos hh hrows hidat
  have hraster : scanlines rows ≠ [] := by
    rw [← List.length_pos_iff, length_scanlines hrows]
    exact Nat.mul_pos (Nat.succ_pos _) hpos
  have hread := readPng_pngBytes (p := p) hh (by omega) (zlibDecompress_zlibStream hblock hraster) (readScanlines_scanlines hrows)
  simpa only [plteData_eq, BitVec.ofNat_toNat] using hread

/-- Settles O48: the closed form is `zlibLength`'s with STORED. -/
theorem pngLengthIsTheClosedForm : Obligations.PngLengthIsTheClosedForm := by
  rintro p h rows hstored hblock rfl hrows
  refine ⟨?_, length_pngBytes p rows.length rows⟩
  rw [length_zlibStream hblock hrows, zlibLength, hstored]
  rfl

/-- Settles O50: f is `otherStream`, and both PNGs have the chunks before IDAT (`pngFront`) and after it in common. -/
theorem otherCompressorChangesOnlyTheIdatChunk : Obligations.OtherCompressorChangesOnlyTheIdatChunk := by
  refine fun which => ⟨otherStream which, zlibDecompress_otherStream which, fun _ => otherStream_of_contract,
    fun p h rows hp => ⟨?_, pngFront h, ?_, ?_⟩⟩
  · rw [length_pngBytes, zlibStream_of_other hp]
  · rw [pngBytes_eq_front, zlibStream_of_other hp]
  · rw [pngBytes_eq_front, zlibStream_of_stored rfl]

/-- Settles O51: four check values, and a register that takes its bytes in pieces (`crcFeed_append`). -/
theorem checksumsMeetTheirCheckValues : Obligations.ChecksumsMeetTheirCheckValues :=
  ⟨by decide +kernel, crc32_typeIend, rfl, by decide, crc32_append⟩

end Sys2Proof.Proofs
end

section
/-! Proofs about the idle timer's invariant, and what each event can do to the session state and the timer. -/

namespace Sys2Proof.Machine

open Sys2Proof.Safety

/-! ### What a byte can do to the session state and the idle timer (45_session.md R340, R343) -/

/-- Inside a session: EN, the idle timer and the pending events are kept, and the session goes on or is aborted. -/
def GoesOnOrAborts (s t : State) : Prop :=
  t.en = s.en ∧ t.idleLimit = s.idleLimit ∧ t.idleCnt = s.idleCnt ∧ t.pending = s.pending ∧
    (t.session = s.session ∨ t.session = .aborted)

theorem exec_goesOnOrAborts {i : Instr} {s t : State} (h : exec i s = .next t) : GoesOnOrAborts s t := by
  obtain ⟨m, rfl | ⟨info, rfl⟩⟩ := exec_memoriesOrAbort h
  · exact ⟨rfl, rfl, rfl, rfl, .inl rfl⟩
  · exact ⟨rfl, rfl, rfl, rfl, .inr rfl⟩

/-- Validation: the commit, the abort or the skip (40_framer.md R195). -/
theorem fieldStatus_goesOnOrAborts {b : Byte} {s t : State} (h : fieldStatus b s = .next t) : GoesOnOrAborts s t := by
  unfold fieldStatus at h
  split_ifs at h
  · obtain ⟨u, hexec, hnext⟩ := onNext_eq_next h
    cases hnext
    have hgoes := exec_goesOnOrAborts hexec
    exact hgoes
  · cases h
    exact ⟨rfl, rfl, rfl, rfl, .inr rfl⟩
  · cases h
    exact ⟨rfl, rfl, rfl, rfl, .inl rfl⟩

/-- Only the magic check and the validation can end in an abort (40_framer.md R186, R195). -/
theorem fieldRule_goesOnOrAborts {b : Byte} {s t : State} (h : fieldRule b s = .next t) : GoesOnOrAborts s t := by
  unfold fieldRule at h
  cases hfield : s.field <;> simp only [hfield] at h
  case magic1 =>
    cases h
    by_cases hmagic : s.magic ||| high16 b = Config.magic
    · rw [fieldMagic1_of_magic hmagic]
      exact ⟨rfl, rfl, rfl, rfl, .inl rfl⟩
    · rw [fieldMagic1_of_desync hmagic]
      exact ⟨rfl, rfl, rfl, rfl, .inr rfl⟩
  case status => exact fieldStatus_goesOnOrAborts h
  all_goals
    cases h
    exact ⟨rfl, rfl, rfl, rfl, .inl rfl⟩

/-- Everything a byte can do to the session state and the idle timer. -/
theorem byteInEvent_cases {b : Byte} {s t : State} (h : byteInEvent b s = .next t) :
    (s.session = .idle ∧ t = fieldMagic0 b (sessionStart s)) ∨
    (s.session = .receiving ∧ GoesOnOrAborts { s with idleCnt := 0#32 } t) ∨
    (s.session = .aborted ∧ t = { s with idleCnt := 0#32 }) ∨
    ((s.session = .finalizing ∨ s.session = .emitting) ∧ t = s) := by
  unfold byteInEvent at h
  split at h
  next hidle => exact .inl ⟨hidle, (Host.Outcome.next.inj h).symm⟩
  next hrec => exact .inr (.inl ⟨hrec, fieldRule_goesOnOrAborts h⟩)
  next hab => exact .inr (.inr (.inl ⟨hab, (Host.Outcome.next.inj h).symm⟩))
  next hfin => exact .inr (.inr (.inr ⟨.inl hfin, (Host.Outcome.next.inj h).symm⟩))
  next hemit => exact .inr (.inr (.inr ⟨.inr hemit, (Host.Outcome.next.inj h).symm⟩))

/-- A register write is answered, and at most one register takes its value (20_memory.md R110). -/
theorem csrWriteEvent_cases (offset : Byte) (v : Word) (s : State) :
    ∃ answer, csrWriteEvent offset v s = { s with csrAnswer := answer } ∨
      ∃ r : Reg, offset = r.offset ∧ csrWriteEvent offset v s = { writeReg r v s with csrAnswer := answer } := by
  unfold csrWriteEvent
  split_ifs
  · refine ⟨.written, ?_⟩
    cases hreg : regAt offset with
    | none => exact .inl (by simp only [writeOffset, hreg])
    | some r => exact .inr ⟨r, (offset_of_regAt hreg).symm, by simp only [writeOffset, hreg]⟩
  · exact ⟨.writeError, .inl rfl⟩

/-! ### The idle timer's invariant (45_session.md R342 to R345) -/

/-- A count of 0 is right in every session state. -/
theorem timerInv_of_zero {s : State} (h : s.idleCnt = 0#32) : TimerInv s := by
  refine ⟨fun _ => h, fun _ hlimit => ?_⟩
  rw [h]
  exact Nat.pos_of_ne_zero fun hzero => hlimit (BitVec.eq_of_toNat_eq hzero)

theorem timerInv_byteInEvent {b : Byte} {s t : State} (h : TimerInv s) (ht : byteInEvent b s = .next t) : TimerInv t := by
  rcases byteInEvent_cases ht with ⟨-, rfl⟩ | ⟨-, -, -, hcnt, -, -⟩ | ⟨-, rfl⟩ | ⟨-, rfl⟩
  · exact timerInv_of_zero rfl
  · exact timerInv_of_zero hcnt
  · exact timerInv_of_zero rfl
  · exact h

/-- The end event sets IDLE_CNT to 0 in an open session (45_session.md R347, R348). -/
theorem timerInv_endEvent {s : State} (h : s.isOpen = false → s.idleCnt = 0#32) : TimerInv (endEvent s) := by
  cases hopen : s.isOpen with
  | false =>
    rw [endEvent_of_not_open hopen]
    exact timerInv_of_zero (h hopen)
  | true =>
    rw [endEvent_of_open hopen]
    exact timerInv_of_zero rfl

/-- After the timeout check a session that is still open is below its limit, whatever the limit and the count were
(45_session.md R345). -/
theorem timerInv_timeoutCheck {s : State} (h : s.isOpen = false → s.idleCnt = 0#32) : TimerInv (timeoutCheck s) := by
  rcases timeoutCheck_cases s with ⟨-, he⟩ | ⟨hnot, he⟩ <;> rw [he]
  · exact timerInv_endEvent h
  · refine ⟨h, fun hopen hlimit => ?_⟩
    by_contra hge
    simp [timedOut_eq_true.2 ⟨hopen, hlimit, Nat.le_of_not_lt hge⟩] at hnot

theorem timerInv_tickEvent {s : State} (h : TimerInv s) : TimerInv (tickEvent s) := by
  unfold tickEvent
  split_ifs with hopen
  · refine timerInv_timeoutCheck fun hclosed => ?_
    exact absurd (hopen.symm.trans hclosed) (by decide)
  · exact h

/-- CTRL ends or resets the session, IDLE_LIMIT is checked at its write; the other registers are no part of the timer. -/
theorem timerInv_writeReg (r : Reg) (v : Word) {s : State} (h : TimerInv s) : TimerInv (writeReg r v s) := by
  have ⟨hclosed, _⟩ := h
  cases r with
  | ctrl =>
    simp only [writeReg, writeCtrl]
    split_ifs
    · exact timerInv_of_zero rfl
    · exact timerInv_endEvent hclosed
    · exact h
  | idleLimit => exact timerInv_timeoutCheck hclosed
  | _ => exact h

theorem timerInv_csrWriteEvent (offset : Byte) (v : Word) {s : State} (h : TimerInv s) :
    TimerInv (csrWriteEvent offset v s) := by
  obtain ⟨answer, he | ⟨r, -, he⟩⟩ := csrWriteEvent_cases offset v s <;> rw [he]
  · exact h
  · exact timerInv_writeReg r v h

theorem timerInv_csrReadEvent (offset : Byte) {s : State} (h : TimerInv s) : TimerInv (csrReadEvent offset s) := by
  rw [csrReadEvent_eq]
  exact h

theorem outPopEvent_idleCnt (s : State) : (outPopEvent s).idleCnt = s.idleCnt := by
  unfold outPopEvent
  split_ifs <;> rfl

theorem finalizeEvent_idleCnt (s : State) : (finalizeEvent s).idleCnt = s.idleCnt := by
  rcases finalizeEvent_cases s with ⟨o, he⟩ | he | ⟨-, he⟩ <;> rw [he] <;> rfl

/-- The timer stands at 0 in a session state that is not open. -/
theorem idleCnt_of_timerInv {s : State} (h : TimerInv s) (hrec : s.session ≠ .receiving) (hab : s.session ≠ .aborted) :
    s.idleCnt = 0#32 := by
  obtain ⟨hclosed, -⟩ := h
  exact hclosed (by simp [State.isOpen, hrec, hab])

end Sys2Proof.Machine

namespace Sys2Proof.Proofs

open Sys2Proof.Machine Sys2Proof.Safety

/-- Settles O55: a byte and every end of a session set IDLE_CNT to 0, and a count or a limit that changes in an open session is
checked at once (`timerInv_timeoutCheck`). -/
theorem stepKeepsTheTimerInvariant : Obligations.StepKeepsTheTimerInvariant :=
  fun _ _ hs ht => step_keeps (P := TimerInv)
    (fun _ _ _ _ _ h => h)
    (fun _ _ _ h ht => timerInv_byteInEvent h ht)
    (fun _ h => timerInv_tickEvent h)
    (fun _ ⟨hclosed, _⟩ => timerInv_endEvent hclosed)
    (fun offset _ h => timerInv_csrReadEvent offset h)
    (fun offset v _ h => timerInv_csrWriteEvent offset v h)
    (fun s h hemit => timerInv_of_zero
      ((outPopEvent_idleCnt s).trans (idleCnt_of_timerInv h (by simp [hemit]) (by simp [hemit]))))
    (fun _ _ => timerInv_of_zero rfl)
    (fun s h hfin => timerInv_of_zero
      ((finalizeEvent_idleCnt s).trans (idleCnt_of_timerInv h (by simp [hfin]) (by simp [hfin]))))
    hs ht

end Sys2Proof.Proofs
end

section
/-! Proofs about the transitions of the session state, and about the Ticks and the end event that bring them about. -/

namespace Sys2Proof.Machine

open Sys2Proof.Safety

/-! ### The transitions of the session state (45_session.md R341) -/

theorem transitionBy_self (e : Event) (x : SessionState) : transitionBy e x x = true := by
  cases x <;> rfl

/-- Reset and soft reset lead to IDLE from everywhere (70_reset_and_hazards.md R450, R452). -/
theorem transitionBy_idle_of_isReset {e : Event} (h : isReset e = true) (x : SessionState) : transitionBy e x .idle = true := by
  cases e with
  | reset => cases x <;> rfl
  | csrWrite offset v =>
    cases x with
    | idle => rfl
    | _ => exact h
  | _ => cases h

/-- An event that may end a receiving session may end an aborted one. -/
theorem transitionBy_endEvent {e : Event} (h : transitionBy e .receiving .finalizing = true) (s : State) :
    transitionBy e s.session (endEvent s).session = true := by
  cases hopen : s.isOpen with
  | false =>
    rw [endEvent_of_not_open hopen]
    exact transitionBy_self e s.session
  | true =>
    rw [endEvent_of_open hopen]
    obtain hs | hs := (isOpen_iff s).1 hopen <;> rw [hs] <;> exact h

theorem transitionBy_tickEvent (s : State) : transitionBy .tick s.session (tickEvent s).session = true := by
  unfold tickEvent
  split_ifs
  · rcases timeoutCheck_cases { s with idleCnt := satInc s.idleCnt } with ⟨-, he⟩ | ⟨-, he⟩ <;> rw [he]
    · exact transitionBy_endEvent (e := .tick) rfl { s with idleCnt := satInc s.idleCnt }
    · exact transitionBy_self _ _
  · exact transitionBy_self _ _

theorem transitionBy_byteInEvent {b : Byte} {s t : State} (h : byteInEvent b s = .next t) :
    transitionBy (.byteIn b) s.session t.session = true := by
  rcases byteInEvent_cases h with ⟨hidle, rfl⟩ | ⟨hrec, -, -, -, -, hgoes | habort⟩ | ⟨-, rfl⟩ | ⟨-, rfl⟩
  · rw [hidle]
    rfl
  · rw [hgoes]
    exact transitionBy_self _ _
  · rw [hrec, habort]
    rfl
  · exact transitionBy_self _ _
  · exact transitionBy_self _ _

/-- A CTRL write may reset or end the session, a write of IDLE_LIMIT may end it where the value is not 0 (45_session.md R345,
R346). -/
theorem transitionBy_writeReg (r : Reg) (v : Word) (s : State) :
    transitionBy (.csrWrite r.offset v) s.session (writeReg r v s).session = true := by
  cases r with
  | ctrl =>
    simp only [writeReg, writeCtrl]
    split_ifs with hsrst hend
    · have hreset : isReset (.csrWrite 0x00#8 v) = true := by simp [isReset, CsrRequest.isSoftReset, Reg.offset, hsrst]
      exact transitionBy_idle_of_isReset hreset _
    · have hmay : mayEndSession 0x00#8 v = true := by
        simp only [mayEndSession, eq_false_of_ne_true hsrst, hend]
        rfl
      exact transitionBy_endEvent (e := .csrWrite 0x00#8 v) hmay { s with en := v.getLsbD 0, strict := v.getLsbD 1 }
    · exact transitionBy_self _ _
  | idleLimit =>
    rcases timeoutCheck_cases { s with idleLimit := v } with ⟨htimeout, he⟩ | ⟨-, he⟩ <;> rw [writeReg, he]
    · obtain ⟨-, hv : v ≠ 0#32, -⟩ := timedOut_eq_true.1 htimeout
      have hmay : mayEndSession 0x14#8 v = true := by simp [mayEndSession, hv]
      exact transitionBy_endEvent (e := .csrWrite 0x14#8 v) hmay { s with idleLimit := v }
    · exact transitionBy_self _ _
  | _ => exact transitionBy_self _ _

theorem transitionBy_csrWriteEvent (offset : Byte) (v : Word) (s : State) :
    transitionBy (.csrWrite offset v) s.session (csrWriteEvent offset v s).session = true := by
  obtain ⟨answer, he | ⟨r, rfl, he⟩⟩ := csrWriteEvent_cases offset v s <;> rw [he]
  · exact transitionBy_self _ _
  · exact transitionBy_writeReg r v s

theorem transitionBy_outPopEvent {s : State} (hemit : s.session = .emitting) :
    transitionBy .outPop s.session (outPopEvent s).session = true := by
  unfold outPopEvent
  split_ifs
  · rw [hemit]
    rfl
  · exact transitionBy_self _ _

/-- The Finalize step ends the session or begins the emission (45_session.md R350 to R353). -/
theorem transitionBy_finalizeEvent {s : State} (hfin : s.session = .finalizing) :
    transitionBy .finalize s.session (finalizeEvent s).session = true := by
  rw [hfin]
  rcases finalizeEvent_cases s with ⟨o, he⟩ | he | ⟨-, he⟩ <;> rw [he] <;> rfl

/-- Every enabled event but a clocked cycle makes a listed transition (45_session.md R341). -/
theorem transitionBy_applyEvent {e : Event} {s t : State} (he : enabled e s = true) (hcycle : isCycle e = false)
    (ht : applyEvent e s = .next t) : transitionBy e s.session t.session = true := by
  cases e with
  | byteIn b => exact transitionBy_byteInEvent ht
  | tick =>
    cases ht
    exact transitionBy_tickEvent s
  | disconnect =>
    cases ht
    exact transitionBy_endEvent (e := .disconnect) rfl s
  | csrRead offset =>
    cases ht
    rw [csrReadEvent_eq]
    exact transitionBy_self _ _
  | csrWrite offset v =>
    cases ht
    exact transitionBy_csrWriteEvent offset v s
  | outPop =>
    cases ht
    exact transitionBy_outPopEvent ((outValid_iff s).1 he)
  | reset =>
    cases ht
    exact transitionBy_idle_of_isReset (e := .reset) rfl _
  | finalize =>
    cases ht
    exact transitionBy_finalizeEvent (by simpa [enabled] using he)
  | cycle c => cases hcycle

/-! ### The end event and the Ticks, as equations (45_session.md R342 to R349) -/

/-- The end event in RECEIVING inside a packet (45_session.md R347, 40_framer.md R200). -/
theorem endEvent_of_midPacket {s : State} (hrec : s.session = .receiving) (hfield : s.field ≠ .magic0) :
    endEvent s = { s with trunc := true, pbuf := [], field := .magic0, session := .finalizing, idleCnt := 0#32 } := by
  simp only [endEvent, hrec, closeFramer, if_neg hfield]

/-- The end event with no packet open (45_session.md R347, R348). -/
theorem endEvent_of_no_packet {s : State} (h : s.session = .receiving ∧ s.field = .magic0 ∨ s.session = .aborted) :
    endEvent s = { s with session := .finalizing, idleCnt := 0#32 } := by
  obtain ⟨hrec, hfield⟩ | hab := h
  · simp only [endEvent, hrec, closeFramer, if_pos hfield]
  · simp only [endEvent, hab]

theorem not_isOpen {s : State} (h : s.session = .idle ∨ s.session = .finalizing ∨ s.session = .emitting) :
    s.isOpen = false := by
  obtain h | h | h := h <;> simp [State.isOpen, h]

theorem step_tick {rest : List Event} {s : State} (hp : s.pending = .tick :: rest) :
    step s = .next (tickEvent (beginEvent rest s)) :=
  step_head hp rfl

theorem step_disconnect {rest : List Event} {s : State} (hp : s.pending = .disconnect :: rest) :
    step s = .next (endEvent (beginEvent rest s)) :=
  step_head hp rfl

/-- A Tick that does not reach a limit is counted (45_session.md R342, R344). -/
theorem tickEvent_of_below {s : State} (hopen : s.isOpen = true)
    (hbelow : s.idleLimit = 0#32 ∨ s.idleCnt.toNat + 1 < s.idleLimit.toNat) :
    tickEvent s = { s with idleCnt := BitVec.ofNat 32 (min (s.idleCnt.toNat + 1) 4294967295) } := by
  have hnot : ¬ timedOut { s with idleCnt := satInc s.idleCnt } = true := by
    rw [timedOut_eq_true]
    rintro ⟨-, hlimit, hreached⟩
    simp only [satInc_toNat] at hreached
    obtain hzero | hlt := hbelow
    · exact hlimit hzero
    · omega
  rw [tickEvent, if_pos hopen, timeoutCheck, if_neg hnot, satInc_eq]

/-- The Tick that reaches a nonzero IDLE_LIMIT is an end event, which sets the count to 0 (45_session.md R345). -/
theorem tickEvent_of_reached {s : State} (hopen : s.isOpen = true) (hlimit : s.idleLimit ≠ 0#32)
    (hreached : s.idleLimit.toNat ≤ s.idleCnt.toNat + 1) : tickEvent s = endEvent s := by
  have hmax := s.idleLimit.isLt
  have htimeout : timedOut { s with idleCnt := satInc s.idleCnt } = true :=
    timedOut_eq_true.2 ⟨hopen, hlimit, by simp only [satInc_toNat]; omega⟩
  have hcount : endEvent { s with idleCnt := satInc s.idleCnt } = endEvent s :=
    (endEvent_of_open (s := { s with idleCnt := satInc s.idleCnt }) hopen).trans (endEvent_of_open (s := s) hopen).symm
  rw [tickEvent, if_pos hopen, timeoutCheck, if_pos htimeout, hcount]

theorem tickEvent_of_not_open {s : State} (h : s.isOpen = false) : tickEvent s = s := by
  simp [tickEvent, h]

/-- `s` after `k` Ticks that end nothing (45_session.md R342), with `rest` still pending. -/
def afterTicks (k : Nat) (rest : List Event) (s : State) : State :=
  { s with
    idleCnt := BitVec.ofNat 32 (min (s.idleCnt.toNat + k) 4294967295)
    pending := rest, csrAnswer := if k = 0 then s.csrAnswer else .quiet }

theorem afterTicks_zero {rest : List Event} {s : State} (hp : s.pending = rest) : afterTicks 0 rest s = s := by
  have hlt := s.idleCnt.isLt
  rw [afterTicks, Nat.add_zero, Nat.min_eq_left (by omega), BitVec.ofNat_toNat, BitVec.setWidth_eq, ← hp]
  rfl

theorem afterTicks_one_then (k : Nat) (rest between : List Event) (s : State) :
    afterTicks k rest (afterTicks 1 between s) = afterTicks (k + 1) rest s := by
  have hcnt : min ((BitVec.ofNat 32 (min (s.idleCnt.toNat + 1) 4294967295)).toNat + k) 4294967295 =
      min (s.idleCnt.toNat + (k + 1)) 4294967295 := by
    rw [BitVec.toNat_ofNat]
    omega
  simp only [afterTicks, hcnt, Nat.succ_ne_zero, if_false, ite_self]

/-- Ticks that do not reach a limit are counted, one after the other. -/
theorem run_ticks {k : Nat} {rest : List Event} {s : State} (hopen : s.isOpen = true)
    (hbelow : s.idleLimit = 0#32 ∨ s.idleCnt.toNat + k < s.idleLimit.toNat)
    (hp : s.pending = List.replicate k Event.tick ++ rest) : run k s = .next (afterTicks k rest s) := by
  induction k generalizing s with
  | zero => exact congrArg _ (afterTicks_zero hp).symm
  | succ k ih =>
    rw [List.replicate_succ, List.cons_append] at hp
    have hstep : step s = .next (afterTicks 1 (List.replicate k Event.tick ++ rest) s) := by
      rw [step_tick hp, tickEvent_of_below (s := beginEvent _ s) hopen (hbelow.imp_right fun h => by
        simp only [beginEvent_idleCnt, beginEvent_idleLimit]; omega)]
      rfl
    have hbelow' : s.idleLimit = 0#32 ∨
        (BitVec.ofNat 32 (min (s.idleCnt.toNat + 1) 4294967295)).toNat + k < s.idleLimit.toNat := by
      refine hbelow.imp_right fun h => ?_
      rw [BitVec.toNat_ofNat]
      omega
    rw [run_succ, hstep, onNext_next, ih (s := afterTicks 1 _ s) hopen hbelow' rfl, afterTicks_one_then]

end Sys2Proof.Machine

namespace Sys2Proof.Proofs

open Sys2Proof.Machine Sys2Proof.Safety

/-- Settles O26: the next event is the one that `step_cases` finds, and each kind of event makes a listed transition
(`transitionBy_applyEvent`). -/
theorem sessionStateChangesOnlyAsListed : Obligations.SessionStateChangesOnlyAsListed := by
  intro s t ht
  rcases step_cases ht with ⟨e, rest, htake, he, happly⟩ | ⟨hnone, hfin, rfl⟩ | ⟨hnone, hnot, rfl⟩
  · have hnext : nextEventOf s = some e := by rw [nextEventOf, htake]
    rw [hnext]
    cases hcycle : isCycle e with
    | true => exact .inl hcycle
    | false => exact .inr (transitionBy_applyEvent (s := beginEvent rest s) ((enabled_congr e rfl).trans he) hcycle happly)
  · have hnext : nextEventOf s = some .finalize := by rw [nextEventOf, hnone, if_pos hfin]
    rw [hnext]
    exact .inr (transitionBy_finalizeEvent (s := beginEvent s.pending s) hfin)
  · have hnext : nextEventOf t = none := by rw [nextEventOf, hnone, if_neg hnot]
    rw [hnext]

/-- Settles O27: the timeout's condition on the new count decides between counting (`tickEvent_of_below`) and the end event
(`tickEvent_of_reached`). -/
theorem tickCountsOnlyInAnOpenSession : Obligations.TickCountsOnlyInAnOpenSession := by
  intro rest s hp
  rw [step_tick hp]
  refine ⟨fun hopen hbelow => ?counted, fun hlimit hreached => ⟨fun hrec hfield => ?midPacket, fun hs => ?noPacket⟩,
    fun hclosed => ?closed⟩
  case counted => exact congrArg _ (tickEvent_of_below (s := beginEvent rest s) ((isOpen_iff _).2 hopen) hbelow)
  case midPacket =>
    have hopen : (beginEvent rest s).isOpen = true := (isOpen_iff _).2 (.inl hrec)
    rw [tickEvent_of_reached hopen hlimit hreached]
    exact congrArg _ (endEvent_of_midPacket (s := beginEvent rest s) hrec hfield)
  case noPacket =>
    have hopen : (beginEvent rest s).isOpen = true := (isOpen_iff _).2 (hs.imp_left And.left)
    rw [tickEvent_of_reached hopen hlimit hreached]
    exact congrArg _ (endEvent_of_no_packet (s := beginEvent rest s) hs)
  case closed => exact congrArg _ (tickEvent_of_not_open (s := beginEvent rest s) (not_isOpen hclosed))

/-- Settles O28: fewer Ticks than IDLE_LIMIT are counted (`run_ticks`), and the one after IDLE_LIMIT - 1 of them reaches it. -/
theorem timeoutFiresAtTheLimitTick : Obligations.TimeoutFiresAtTheLimitTick := by
  intro rest s hs hcnt hlimit hp
  have hopen : s.isOpen = true := (isOpen_iff s).2 hs
  have hmax := s.idleLimit.isLt
  have hzero : s.idleCnt.toNat = 0 := by rw [hcnt]; rfl
  have hcount (k : Nat) (hk : k < s.idleLimit.toNat) :
      run k s = .next (afterTicks k (List.replicate (s.idleLimit.toNat - k) Event.tick ++ rest) s) ∧
      (BitVec.ofNat 32 (min (s.idleCnt.toNat + k) 4294967295)).toNat = k := by
    refine ⟨run_ticks hopen (.inr (by omega)) ?_, by rw [BitVec.toNat_ofNat]; omega⟩
    rw [hp, ← List.append_assoc, List.replicate_append_replicate, Nat.add_sub_cancel' hk.le]
  refine ⟨fun k hk => ?before, ?atLimit⟩
  case before =>
    obtain ⟨hrun, hk⟩ := hcount k hk
    exact ⟨_, hrun, rfl, rfl, hk⟩
  case atLimit =>
    obtain ⟨m, hm⟩ := Nat.exists_eq_add_one_of_ne_zero fun h : s.idleLimit.toNat = 0 => hlimit (BitVec.eq_of_toNat_eq h)
    obtain ⟨hrun, hidle⟩ := hcount m (by omega)
    rw [hm, Nat.add_sub_cancel_left] at hrun
    have hreached : s.idleLimit.toNat ≤ (BitVec.ofNat 32 (min (s.idleCnt.toNat + m) 4294967295)).toNat + 1 := by omega
    have hlast : step (afterTicks m ([Event.tick] ++ rest) s) = .next _ :=
      (step_tick rfl).trans (congrArg _ ((tickEvent_of_reached (s := beginEvent rest (afterTicks m ([Event.tick] ++ rest) s))
        hopen hlimit hreached).trans (endEvent_of_open hopen)))
    rw [hm, run_add, hrun, onNext_next, run_succ, List.replicate_one, hlast]
    exact ⟨_, rfl, rfl, rfl, rfl, rfl⟩

/-- Settles O29: with the timeout disabled every Tick is counted (`run_ticks`). -/
theorem zeroLimitNeverTimesOut : Obligations.ZeroLimitNeverTimesOut :=
  fun _ _ s hs hlimit hp => run_ticks ((isOpen_iff s).2 hs) (.inl hlimit) hp

/-- Settles O30: the step is the end event, in each of its forms. -/
theorem disconnectEndsAnOpenSession : Obligations.DisconnectEndsAnOpenSession := by
  intro rest s hp
  rw [step_disconnect hp]
  exact ⟨fun hrec hfield => congrArg _ (endEvent_of_no_packet (s := beginEvent rest s) (.inl ⟨hrec, hfield⟩)),
    fun hrec hfield => congrArg _ (endEvent_of_midPacket (s := beginEvent rest s) hrec hfield),
    fun hab => congrArg _ (endEvent_of_no_packet (s := beginEvent rest s) (.inr hab)),
    fun hclosed => congrArg _ (endEvent_of_not_open (s := beginEvent rest s) (not_isOpen hclosed))⟩

end Sys2Proof.Proofs
end

section
/-! Proofs about the Finalize step: which outcome it decides, and what it leaves. -/

namespace Sys2Proof.Machine

open Sys2Proof.Safety

/-! ### RESULT and the outcome (45_session.md R350) -/

/-- The four parts of RESULT are disjoint bits (10_state.md R53). -/
theorem resultWord_eq_add (o : SessionOutcome) : ∀ trunc rleBad skipAny : Bool,
    resultWord o trunc rleBad skipAny =
      o.code + (if trunc then 256#32 else 0#32) + (if rleBad then 512#32 else 0#32) + (if skipAny then 1024#32 else 0#32) := by
  cases o <;> decide

theorem imageHeight_eq (rowsAcc : Word) : imageHeight rowsAcc = (rowsAcc.toNat + 7) / 8 * 8 :=
  Nat.mul_comm _ _

theorem imageHeight_ne_zero {rowsAcc : Word} (h : rowsAcc ≠ 0#32) : imageHeight rowsAcc ≠ 0 := by
  have hpos : rowsAcc.toNat ≠ 0 := fun hzero => h (BitVec.eq_of_toNat_eq hzero)
  rw [imageHeight_eq]
  omega

/-- A session with no part or no full row is EMPTY. -/
theorem finalOutcome_of_no_rows {s : State} (hnone : s.fatalKind = .none) (h : s.partCnt = 0#32 ∨ s.rowsAcc = 0#32) :
    finalOutcome s = .empty := by
  obtain hparts | hrows := h
  · simp [finalOutcome, hnone, hparts]
  · simp [finalOutcome, hnone, hrows, imageHeight, roundup8]

/-- With recorded rows the size of the zlib stream decides (44_png.md R311). -/
theorem finalOutcome_of_rows {s : State} (hnone : s.fatalKind = .none) (hparts : s.partCnt ≠ 0#32)
    (hrows : s.rowsAcc ≠ 0#32) :
    finalOutcome s =
      if Config.chunkLimit < zlibLength s.params (imageHeight s.rowsAcc) (compose s.parts (imageHeight s.rowsAcc))
      then .overflow else .image := by
  simp only [finalOutcome, hnone, hparts, imageHeight_ne_zero hrows, ne_eq, not_true_eq_false, if_false]

/-- The zlib length is the closed form of 44_png.md R299 with STORED, and the stream's own length with another compressor. -/
theorem zlibLength_eq {p : Config.Params} {h n : Nat} {rows : List (List Stored)}
    (hn : p.deflate = .stored ∧
        n = 2 + 5 * ((161 * h + (p.storedBlockMax.toNat - 1)) / p.storedBlockMax.toNat) + 161 * h + 4 ∨
      p.deflate ≠ .stored ∧ n = (zlibStream p (scanlines rows)).length) :
    zlibLength p h rows = n := by
  obtain ⟨hstored, rfl⟩ | ⟨hother, rfl⟩ := hn
  · rw [zlibLength, hstored]
    rfl
  · cases hp : p.deflate with
    | stored => exact absurd hp hother
    | other which => rw [zlibStream_of_other hp, zlibLength, hp]

/-! ### What the Finalize step does, by its outcome (45_session.md R351 to R354) -/

theorem step_finalize {rest : List Event} {s : State} (hfin : s.session = .finalizing) (hp : s.pending = .finalize :: rest) :
    step s = .next (finalizeEvent (beginEvent rest s)) :=
  step_head hp (by simp [enabled, hfin])

theorem finalizeEvent_of_fatal {s : State} (h : s.fatalKind ≠ .none) :
    finalizeEvent s = finishWithoutImage s.fatalKind.outcome s :=
  if_pos h

theorem finalizeEvent_of_empty {s : State} (hnone : s.fatalKind = .none) (h : s.partCnt = 0#32 ∨ s.rowsAcc = 0#32) :
    finalizeEvent s = finishWithoutImage .empty s := by
  rw [finalizeEvent, if_neg (not_not.2 hnone), finalOutcome_of_no_rows hnone h]

section
variable {s : State} (hnone : s.fatalKind = .none) (hparts : s.partCnt ≠ 0#32) (hrows : s.rowsAcc ≠ 0#32)
include hnone hparts hrows

theorem finalizeEvent_of_image
    (h : ¬ Config.chunkLimit < zlibLength s.params (imageHeight s.rowsAcc) (compose s.parts (imageHeight s.rowsAcc))) :
    finalizeEvent s = beginEmission s := by
  rw [finalizeEvent, if_neg (not_not.2 hnone), finalOutcome_of_rows hnone hparts hrows, if_neg h]

theorem finalizeEvent_of_too_large
    (h : Config.chunkLimit < zlibLength s.params (imageHeight s.rowsAcc) (compose s.parts (imageHeight s.rowsAcc))) :
    finalizeEvent s = sizeOverflow s := by
  rw [finalizeEvent, if_neg (not_not.2 hnone), finalOutcome_of_rows hnone hparts hrows, if_pos h]

end

/-- `finishWithoutImage` with RESULT as a sum. -/
theorem finishWithoutImage_eq (o : SessionOutcome) (s : State) :
    finishWithoutImage o s =
      { s with
        result := o.code + (if s.trunc then 256#32 else 0#32) + (if s.rleBad then 512#32 else 0#32)
          + (if s.skipAny then 1024#32 else 0#32)
        imgHeight := 0#32, pngLen := 0#32, vram := [], parts := []
        session := .idle, eventBits := s.eventBits ||| 1#3 } := by
  rw [← resultWord_eq_add]
  rfl

theorem heightWord_toNat {h : Nat} (hh : h < 4294967296) : (heightWord h).toNat = h := by
  rw [heightWord, if_pos hh, BitVec.toNat_ofNat, Nat.mod_eq_of_lt hh]

end Sys2Proof.Machine

namespace Sys2Proof.Proofs

open Sys2Proof.Machine

/-- Settles O31: a fatal kind decides before anything else, and with none a session without rows is EMPTY; both end in
`finishWithoutImage`. -/
theorem finalizeWithoutImage : Obligations.FinalizeWithoutImage := by
  intro rest s code hfin hp hkind
  have hfatal (k : FatalKind) (hk : s.fatalKind = k) (hne : k ≠ .none) :
      finalizeEvent (beginEvent rest s) = finishWithoutImage k.outcome (beginEvent rest s) := by
    subst hk
    exact finalizeEvent_of_fatal hne
  have hend : ∃ o : SessionOutcome, finalizeEvent (beginEvent rest s) = finishWithoutImage o (beginEvent rest s) ∧
      o.code = code := by
    obtain ⟨hk, rfl⟩ | ⟨hk, rfl⟩ | ⟨hk, rfl⟩ | ⟨hnone, hrows, rfl⟩ := hkind
    · exact ⟨_, hfatal .desync hk (by decide), rfl⟩
    · exact ⟨_, hfatal .checksum hk (by decide), rfl⟩
    · exact ⟨_, hfatal .overflow hk (by decide), rfl⟩
    · exact ⟨_, finalizeEvent_of_empty (s := beginEvent rest s) hnone hrows, rfl⟩
  obtain ⟨o, hend, rfl⟩ := hend
  rw [step_finalize hfin hp, hend, finishWithoutImage_eq]
  rfl

/-- Settles O32: the stream is no longer than a chunk holds, so the outcome is IMAGE and the emission begins. -/
theorem finalizeWithImageBeginsEmission : Obligations.FinalizeWithImageBeginsEmission := by
  intro rest s h n hfin hp hnone hparts hrows hh hn hsmall
  obtain rfl : imageHeight s.rowsAcc = h := (imageHeight_eq s.rowsAcc).trans hh.symm
  have hfits : ¬ Config.chunkLimit <
      zlibLength s.params (imageHeight s.rowsAcc) (compose s.parts (imageHeight s.rowsAcc)) := by
    rw [zlibLength_eq hn]
    exact Nat.not_lt.2 hsmall
  refine ⟨heightWord (imageHeight s.rowsAcc), heightWord_toNat, ?_⟩
  rw [step_finalize hfin hp, finalizeEvent_of_image (s := beginEvent rest s) hnone hparts hrows hfits,
    beginEmission, resultWord_eq_add]
  rfl

/-- Settles O33: the stream is longer than a chunk holds, so the step takes the size OVERFLOW. -/
theorem finalizeOfTooLargeAnImageOverflows : Obligations.FinalizeOfTooLargeAnImageOverflows := by
  intro rest s h n hfin hp hnone hparts hrows hh hn hlarge
  obtain rfl : imageHeight s.rowsAcc = h := (imageHeight_eq s.rowsAcc).trans hh.symm
  have htoo : Config.chunkLimit <
      zlibLength s.params (imageHeight s.rowsAcc) (compose s.parts (imageHeight s.rowsAcc)) := by
    rw [zlibLength_eq hn]
    exact hlarge
  have hbits : s.eventBits ||| evFatal ||| 1#3 = s.eventBits ||| 5#3 := BitVec.or_assoc _ _ _
  rw [step_finalize hfin hp, finalizeEvent_of_too_large (s := beginEvent rest s) hnone hparts hrows htoo,
    sizeOverflow, finishWithoutImage_eq, beginEvent_eventBits, hbits]
  rfl

end Sys2Proof.Proofs
end

section
/-! Proofs that a session's image is a function of its bytes (45_session.md R356): the view of a state that an image can depend
on, what the bytes and the session's end make of it, and the other events, which leave it as it is. -/

namespace Sys2Proof.Machine

open Sys2Proof.Safety

/-! ### What a session's image can depend on -/

/-- `s` without what no session's image depends on: the idle timer's count, EVENTS, IRQ_EN, and the fields beside the block. -/
def sessionView (s : State) : State :=
  { s with
    idleCnt := 0#32, eventBits := 0#3, irqEn := 0#3
    pending := [], csrAnswer := .quiet, disconnectLevel := false, rle := RleUnit.empty }

/-- Two states that agree on everything an image can depend on. -/
def SameView (s t : State) : Prop := sessionView s = sessionView t

/-- An operation that answers a next state, of which the view alone decides the view. -/
def ReadsView (f : State → Outcome) : Prop :=
  ∀ s, ∃ t u, f (sessionView s) = .next t ∧ f s = .next u ∧ SameView t u

theorem sameView_beginEvent (rest : List Event) (s : State) : SameView (beginEvent rest s) s := rfl

theorem SameView.symm {s t : State} (h : SameView s t) : SameView t s := Eq.symm h

theorem SameView.trans {s t u : State} (h : SameView s t) (h' : SameView t u) : SameView s u := Eq.trans h h'

/-- A value that is read off the view. -/
theorem SameView.congr {α : Type} {f : State → α} (hf : ∀ s, f (sessionView s) = f s) {s t : State} (h : SameView s t) :
    f s = f t := by
  unfold SameView at h
  rw [← hf s, h, hf t]

/-- An update of which the view alone decides the view. -/
theorem SameView.map {f : State → State} (hf : ∀ s, SameView (f (sessionView s)) (f s)) {s t : State} (h : SameView s t) :
    SameView (f s) (f t) :=
  h.congr (f := fun s => sessionView (f s)) hf

theorem SameView.fields {s t : State} (h : SameView s t) :
    s.raster = t.raster ∧ s.outbuf = t.outbuf ∧ s.session = t.session ∧ s.result = t.result :=
  ⟨h.congr (f := (·.raster)) fun _ => rfl, h.congr (f := (·.outbuf)) fun _ => rfl, h.congr (f := (·.session)) fun _ => rfl,
    h.congr (f := (·.result)) fun _ => rfl⟩

theorem ReadsView.sameView {f : State → Outcome} (hf : ReadsView f) {s t : State} (h : SameView s t) :
    ∃ s' t', f s = .next s' ∧ f t = .next t' ∧ SameView s' t' := by
  obtain ⟨v, s', hv, hs', hvs⟩ := hf s
  obtain ⟨w, t', hw, ht', hwt⟩ := hf t
  have hvw : v = w := Host.Outcome.next.inj (hv.symm.trans ((congrArg f h).trans hw))
  subst hvw
  exact ⟨s', t', hs', ht', hvs.symm.trans hwt⟩

/-! ### What a byte does (40_framer.md R183) -/

theorem storeAppend_sameView (d : List Byte) (s : State) : SameView (storeAppend d (sessionView s)) (storeAppend d s) := by
  rcases storeAppend_cases d s with ⟨hfit, he⟩ | ⟨hfull, he⟩ <;> rw [he]
  · rw [storeAppend_of_fits (s := sessionView s) hfit]
    rfl
  · rw [storeAppend_of_full (s := sessionView s) hfull]
    rfl

theorem exec_readsView (i : Instr) : ReadsView (exec i) := by
  intro s
  cases i with
  | print comp payload =>
    by_cases h : s.partCnt = s.params.maxParts
    · exact ⟨_, _, exec_print_of_full (s := sessionView s) h comp payload, exec_print_of_full h comp payload, rfl⟩
    · exact ⟨_, _, exec_print_of_room (s := sessionView s) h comp payload, exec_print_of_room h comp payload, rfl⟩
  | fillRaw payload => exact ⟨_, _, rfl, rfl, storeAppend_sameView payload s⟩
  | fillRle comp payload =>
    exact ⟨_, _, exec_fillRle comp payload _, exec_fillRle comp payload s,
      storeAppend_sameView _ { s with rleBad := s.rleBad || (decompress payload).2, rle := RleUnit.empty }⟩
  | rleRun n v =>
    obtain ⟨u, hu⟩ := exec_rle_next (i := .rleRun n v) rfl (sessionView s)
    obtain ⟨w, hw⟩ := exec_rle_next (i := .rleRun n v) rfl s
    exact ⟨_, _, hu, hw, rfl⟩
  | rleLit n bytes =>
    obtain ⟨u, hu⟩ := exec_rle_next (i := .rleLit n bytes) rfl (sessionView s)
    obtain ⟨w, hw⟩ := exec_rle_next (i := .rleLit n bytes) rfl s
    exact ⟨_, _, hu, hw, rfl⟩
  | _ => exact ⟨_, _, rfl, rfl, rfl⟩

theorem commit_readsView : ReadsView commit := by
  intro s
  obtain ⟨t, u, ht, hu, h⟩ := exec_readsView (latchedInstr s) s
  refine ⟨{ t with pbuf := [] }, { u with pbuf := [] }, ?_, ?_, h.map (f := fun s => { s with pbuf := [] }) fun _ => rfl⟩
  · change onNext (exec (latchedInstr s) (sessionView s)) _ = _
    rw [ht, onNext_next]
  · rw [commit, hu, onNext_next]

theorem fieldStatus_readsView (b : Byte) : ReadsView (fieldStatus b) := by
  intro s
  by_cases hmatch : s.csumAcc = s.csumRx
  · obtain ⟨t, u, ht, hu, h⟩ := commit_readsView { s with stat := b, field := .magic0 }
    exact ⟨t, u, (fieldStatus_of_match (s := sessionView s) hmatch b).trans ht, (fieldStatus_of_match hmatch b).trans hu, h⟩
  · by_cases hfatal : (b.getLsbD 0 && s.strict) = true
    · exact ⟨_, _, (if_neg hmatch).trans (if_pos hfatal), (if_neg hmatch).trans (if_pos hfatal), rfl⟩
    · exact ⟨_, _, (if_neg hmatch).trans (if_neg hfatal), (if_neg hmatch).trans (if_neg hfatal), rfl⟩

theorem fieldRule_readsView (b : Byte) : ReadsView (fieldRule b) := by
  intro s
  have hfield : (sessionView s).field = s.field := rfl
  unfold fieldRule
  rw [hfield]
  cases s.field with
  | magic1 =>
    refine ⟨_, _, rfl, rfl, ?_⟩
    by_cases hmagic : s.magic ||| high16 b = Config.magic
    · rw [fieldMagic1_of_magic hmagic, fieldMagic1_of_magic (s := sessionView s) hmagic]
      rfl
    · rw [fieldMagic1_of_desync hmagic, fieldMagic1_of_desync (s := sessionView s) hmagic]
      rfl
  | status => exact fieldStatus_readsView b s
  | _ => exact ⟨_, _, rfl, rfl, rfl⟩

theorem byteInEvent_readsView (b : Byte) : ReadsView (byteInEvent b) := by
  intro s
  have hsession : (sessionView s).session = s.session := rfl
  unfold byteInEvent
  rw [hsession]
  cases s.session with
  | receiving => exact fieldRule_readsView b { s with session := .receiving, idleCnt := 0#32 }
  | _ => exact ⟨_, _, rfl, rfl, rfl⟩

/-! ### What the session's end does (45_session.md R346 to R354) -/

theorem SameView.endEvent {s t : State} (h : SameView s t) : SameView (endEvent s) (endEvent t) := by
  refine h.map fun s => ?_
  cases hopen : s.isOpen with
  | false =>
    rw [endEvent_of_not_open hopen, endEvent_of_not_open (s := sessionView s) hopen]
    rfl
  | true =>
    rw [endEvent_of_open hopen, endEvent_of_open (s := sessionView s) hopen]
    rfl

theorem SameView.finalizeEvent {s t : State} (h : SameView s t) : SameView (finalizeEvent s) (finalizeEvent t) := by
  refine h.map fun s => ?_
  have hkind : (sessionView s).fatalKind = s.fatalKind := rfl
  have houtcome : finalOutcome (sessionView s) = finalOutcome s := rfl
  unfold Machine.finalizeEvent
  rw [hkind, houtcome]
  split_ifs
  · rfl
  · cases finalOutcome s <;> rfl

/-- The end event and, where it ends a session, the Finalize step. -/
def closeSession (s : State) : State :=
  if s.isOpen then finalizeEvent (endEvent s) else s

theorem SameView.closeSession {s t : State} (h : SameView s t) : SameView (closeSession s) (closeSession t) := by
  have hopen : s.isOpen = t.isOpen := h.congr fun _ => rfl
  unfold Machine.closeSession
  rw [hopen]
  split_ifs
  · exact h.endEvent.finalizeEvent
  · exact h

/-- The last two steps of a session's run: Disconnect and Finalize, which is not enabled where no session was open. -/
theorem run_disconnect_finalize {s : State} (hfin : s.session ≠ .finalizing) (hp : s.pending = [.disconnect, .finalize]) :
    ∃ t, run 2 s = .next t ∧ SameView t (closeSession s) := by
  have hstep : step s = .next (endEvent (beginEvent [.finalize] s)) := step_disconnect hp
  cases hopen : s.isOpen with
  | false =>
    have hwait : step (beginEvent [.finalize] s) = .next (beginEvent [.finalize] s) := by
      simp [step, nextEvent, takeEnabled, enabled, hfin]
    refine ⟨beginEvent [.finalize] s, ?_, ?_⟩
    · rw [run_succ, hstep, endEvent_of_not_open (s := beginEvent [.finalize] s) hopen, onNext_next, run_succ, hwait]
      rfl
    · rw [closeSession, hopen]
      rfl
  | true =>
    have hend := endEvent_of_open (s := beginEvent [.finalize] s) hopen
    have hfinalize : step (endEvent (beginEvent [.finalize] s)) =
        .next (finalizeEvent (beginEvent [] (endEvent (beginEvent [.finalize] s)))) :=
      step_finalize (by rw [hend]) (by rw [hend]; rfl)
    refine ⟨finalizeEvent (beginEvent [] (endEvent (beginEvent [.finalize] s))), ?_, ?_⟩
    · rw [run_succ, hstep, onNext_next, run_succ, hfinalize]
      rfl
    · rw [closeSession, if_pos hopen]
      exact ((sameView_beginEvent [] _).trans (sameView_beginEvent [.finalize] s).endEvent).finalizeEvent

/-! ### A session's bytes and the events between them -/

/-- Some bytes, one after the other. -/
def feedBytes : List Byte → State → Outcome
  | [], s => .next s
  | b :: bs, s => onNext (byteInEvent b s) (feedBytes bs)

theorem feedBytes_sameView (bs : List Byte) {s t : State} (h : SameView s t) :
    ∃ s' t', feedBytes bs s = .next s' ∧ feedBytes bs t = .next t' ∧ SameView s' t' := by
  induction bs generalizing s t with
  | nil => exact ⟨s, t, rfl, rfl, h⟩
  | cons b bs ih =>
    obtain ⟨s', t', hs, ht, h'⟩ := (byteInEvent_readsView b).sameView h
    rw [feedBytes, feedBytes, hs, ht]
    exact ih h'

theorem feedBytes_append (bs cs : List Byte) (s : State) : feedBytes (bs ++ cs) s = onNext (feedBytes bs s) (feedBytes cs) := by
  induction bs generalizing s with
  | nil => rfl
  | cons b bs ih =>
    rw [List.cons_append, feedBytes, feedBytes]
    cases byteInEvent b s with
    | next t => exact ih t
    | fault r => rfl
    | refused r => rfl

theorem bytesOf_cons (e : Event) (es : List Event) : bytesOf (e :: es) = bytesOf [e] ++ bytesOf es := by
  cases e <;> rfl

/-- Bytes are accepted, and the timeout is disabled (40_framer.md R181, 45_session.md R344). -/
def Accepting (s : State) : Prop := s.inReady = true ∧ s.idleLimit = 0#32

theorem SameView.accepting {s t : State} (h : SameView s t) (hs : Accepting s) : Accepting t := by
  have hready : s.inReady = t.inReady := h.congr fun _ => rfl
  have hlimit : s.idleLimit = t.idleLimit := h.congr (f := (·.idleLimit)) fun _ => rfl
  rwa [Accepting, ← hready, ← hlimit]

/-- A byte keeps that, and the pending events. -/
theorem byteInEvent_accepting {b : Byte} {s t : State} (hs : Accepting s) (h : byteInEvent b s = .next t) :
    Accepting t ∧ t.pending = s.pending := by
  obtain ⟨hready, hlimit⟩ := hs
  obtain ⟨hen, hsession⟩ := (inReady_iff s).1 hready
  rcases byteInEvent_cases h with ⟨-, rfl⟩ | ⟨hrec, hen', hlimit', -, hpending, hgoes⟩ | ⟨-, rfl⟩ | ⟨-, rfl⟩
  · exact ⟨⟨inReady_of_open hen (.inr (.inl rfl)), hlimit⟩, rfl⟩
  · exact ⟨⟨inReady_of_open (hen'.trans hen) (.inr (hgoes.imp_left (·.trans hrec))), hlimit'.trans hlimit⟩, hpending⟩
  · exact ⟨⟨hready, hlimit⟩, rfl⟩
  · exact ⟨⟨hready, hlimit⟩, rfl⟩

/-- With the timeout disabled a Tick is counted at most (45_session.md R344). -/
theorem tickEvent_sameView {s : State} (hlimit : s.idleLimit = 0#32) :
    SameView (tickEvent s) s ∧ (tickEvent s).pending = s.pending := by
  cases hopen : s.isOpen with
  | false =>
    rw [tickEvent_of_not_open hopen]
    exact ⟨rfl, rfl⟩
  | true =>
    rw [tickEvent_of_below hopen (.inl hlimit)]
    exact ⟨rfl, rfl⟩

/-- One quiet event: a byte does what it does, a Tick and a register read leave the view. -/
theorem step_quiet {e : Event} {rest : List Event} {s : State} (hs : Accepting s) (hquiet : isQuiet e = true)
    (hp : s.pending = e :: rest) :
    ∃ t u, step s = .next t ∧ feedBytes (bytesOf [e]) s = .next u ∧ SameView t u ∧ Accepting t ∧ t.pending = rest := by
  have hbegin : Accepting (beginEvent rest s) := hs
  have ⟨hready, hlimit⟩ := hs
  cases e with
  | byteIn b =>
    obtain ⟨t, u, ht, hu, h⟩ := (byteInEvent_readsView b).sameView (sameView_beginEvent rest s)
    obtain ⟨haccepting, hpending⟩ := byteInEvent_accepting hbegin ht
    have hfeed : feedBytes (bytesOf [.byteIn b]) s = .next u := congrArg (onNext · (feedBytes [])) hu
    exact ⟨t, u, (step_head hp hready).trans ht, hfeed, h, haccepting, hpending⟩
  | tick =>
    obtain ⟨hview, hpending⟩ := tickEvent_sameView (s := beginEvent rest s) hlimit
    exact ⟨_, s, step_tick hp, rfl, hview, hview.symm.accepting hbegin, hpending⟩
  | csrRead offset => exact ⟨_, s, step_csrRead hp, rfl, rfl, hs, rfl⟩
  | _ => cases hquiet

/-- Quiet events lead to the view that their bytes alone lead to. -/
theorem run_quiet {es rest : List Event} {s : State} (hs : Accepting s) (hquiet : ∀ e ∈ es, isQuiet e = true)
    (hp : s.pending = es ++ rest) :
    ∃ t u, run es.length s = .next t ∧ feedBytes (bytesOf es) s = .next u ∧ SameView t u ∧ Accepting t ∧
      t.pending = rest := by
  induction es generalizing s with
  | nil => exact ⟨s, s, rfl, rfl, rfl, hs, hp⟩
  | cons e es ih =>
    obtain ⟨he, hes⟩ := List.forall_mem_cons.1 hquiet
    obtain ⟨s1, u1, hstep, hfeed, hview, hs1, hp1⟩ := step_quiet hs he hp
    obtain ⟨t, v, hrun, hv, htv, ht, hpt⟩ := ih hs1 hes hp1
    obtain ⟨v', u, hv', hu, hvu⟩ := feedBytes_sameView (bytesOf es) hview
    obtain rfl : v = v' := Host.Outcome.next.inj (hv.symm.trans hv')
    refine ⟨t, u, ?_, ?_, htv.trans hvu, ht, hpt⟩
    · rw [List.length_cons, run_succ, hstep, onNext_next, hrun]
    · rw [bytesOf_cons, feedBytes_append, hfeed, onNext_next, hu]

/-- A whole session with the timeout disabled: what its bytes lead to, closed. -/
theorem run_session {es : List Event} {s : State} (hs : Accepting s) (hquiet : ∀ e ∈ es, isQuiet e = true)
    (hp : s.pending = es ++ [.disconnect, .finalize]) :
    ∃ t u, run (es.length + 2) s = .next t ∧ feedBytes (bytesOf es) s = .next u ∧ SameView t (closeSession u) := by
  obtain ⟨v, u, hrun, hfeed, hview, ⟨hready, -⟩, hpending⟩ := run_quiet hs hquiet hp
  have hfin : v.session ≠ .finalizing := by
    obtain ⟨-, h | h | h⟩ := (inReady_iff v).1 hready <;> simp [h]
  obtain ⟨t, hclose, ht⟩ := run_disconnect_finalize hfin hpending
  exact ⟨t, u, by rw [run_add, hrun, onNext_next, hclose], hfeed, ht.trans hview.closeSession⟩

/-- Session start clears everything that an image depends on but for the configuration, EN, STRICT, IDLE_LIMIT and the output
(45_session.md R340, 40_framer.md R185). -/
theorem sameView_sessionStart {s t : State} (hparams : s.params = t.params) (hen : s.en = t.en) (hstrict : s.strict = t.strict)
    (hlimit : s.idleLimit = t.idleLimit) (hs : OutputEmpty s) (ht : OutputEmpty t) (b : Byte) :
    SameView (fieldMagic0 b (sessionStart s)) (fieldMagic0 b (sessionStart t)) := by
  obtain ⟨hsraster, hsoutbuf, hsidx⟩ := hs
  obtain ⟨htraster, htoutbuf, htidx⟩ := ht
  simp only [SameView, sessionView, fieldMagic0, sessionStart, hparams, hen, hstrict, hlimit, hsraster, hsoutbuf, hsidx,
    htraster, htoutbuf, htidx]

end Sys2Proof.Machine

namespace Sys2Proof.Proofs

open Sys2Proof.Machine Sys2Proof.Safety

/-- Settles O36: each run leads to the view that its bytes alone lead to (`run_session`). The first byte makes the two views one
(`sameView_sessionStart`) and every later one keeps that; with no byte no session starts and nothing is held. -/
theorem sessionImageDependsOnlyOnItsBytes : Obligations.SessionImageDependsOnlyOnItsBytes := by
  intro es1 es2 s1 s2 hidle1 hidle2 hen1 hen2 hstrict hparams hlimit1 hlimit2 hout1 hout2 hquiet1 hquiet2 hbytes hp1 hp2
  obtain ⟨t1, u1, hrun1, hfeed1, hview1⟩ := run_session ⟨inReady_of_open hen1 (.inl hidle1), hlimit1⟩ hquiet1 hp1
  obtain ⟨t2, u2, hrun2, hfeed2, hview2⟩ := run_session ⟨inReady_of_open hen2 (.inl hidle2), hlimit2⟩ hquiet2 hp2
  refine ⟨t1, t2, hrun1, hrun2, ?_⟩
  rw [hbytes] at hfeed1 ⊢
  cases hbs : bytesOf es2 with
  | nil =>
    rw [hbs] at hfeed1 hfeed2
    cases hfeed1
    cases hfeed2
    have hclosed {s : State} (h : s.session = .idle) : closeSession s = s := by
      rw [closeSession, not_isOpen (.inl h)]
      rfl
    rw [hclosed hidle1] at hview1
    rw [hclosed hidle2] at hview2
    obtain ⟨hraster1, houtbuf1, hsession1, -⟩ := hview1.fields
    obtain ⟨hraster2, houtbuf2, hsession2, -⟩ := hview2.fields
    obtain ⟨hnone1, hempty1, -⟩ := hout1
    obtain ⟨hnone2, hempty2, -⟩ := hout2
    exact ⟨by rw [hraster1, hraster2, hnone1, hnone2], by rw [houtbuf1, houtbuf2, hempty1, hempty2],
      by rw [hsession1, hsession2, hidle1, hidle2], fun h => absurd rfl h⟩
  | cons b bs =>
    have hfirst {s : State} (h : s.session = .idle) :
        feedBytes (b :: bs) s = feedBytes bs (fieldMagic0 b (sessionStart s)) := by
      rw [feedBytes, byteInEvent, h]
      rfl
    rw [hbs, hfirst hidle1] at hfeed1
    rw [hbs, hfirst hidle2] at hfeed2
    obtain ⟨v1, v2, hv1, hv2, hview⟩ := feedBytes_sameView bs
      (sameView_sessionStart hparams (hen1.trans hen2.symm) hstrict (hlimit1.trans hlimit2.symm) hout1 hout2 b)
    obtain rfl : u1 = v1 := Host.Outcome.next.inj (hfeed1.symm.trans hv1)
    obtain rfl : u2 = v2 := Host.Outcome.next.inj (hfeed2.symm.trans hv2)
    obtain ⟨hraster, houtbuf, hsession, hresult⟩ := (hview1.trans (hview.closeSession.trans hview2.symm)).fields
    exact ⟨hraster, houtbuf, hsession, fun _ => hresult⟩

end Sys2Proof.Proofs
end

section
/-! Proofs about the exceptions (60_exceptions.md): that nothing stops the machine, when EVENTS bits rise and fall and what irq
makes of them, and the return from an abort. -/

namespace Sys2Proof.Machine

open Sys2Proof.Safety

/-! ### Every step answers a next state (60_exceptions.md R412) -/

/-- `applyEvent_toBlock_congr` gives both of its states an answer; here they are one. -/
theorem applyEvent_next (e : Event) (s : State) : ∃ t, applyEvent e s = .next t := by
  obtain ⟨t, -, ht, -, -⟩ := applyEvent_toBlock_congr e (s := s) (t := s) ⟨rfl, rfl, fun _ => rfl⟩
  exact ⟨t, ht⟩

/-- A step is an event, the Finalize step or nothing. -/
theorem step_next (s : State) : ∃ t, step s = .next t := by
  unfold step nextEvent
  split
  · exact applyEvent_next _ _
  · split_ifs
    · exact ⟨_, rfl⟩
    · exact ⟨_, rfl⟩

/-- No event writes the configuration (00_scope.md R10). -/
theorem params_keptBySession (p : Config.Params) : KeptBySession fun s => s.params = p where
  control _ _ h := h
  start _ _ h := h
  command _ _ _ _ _ h ht := by
    obtain ⟨hparams, -, -⟩ := exec_keeps_output ht
    exact hparams.trans h
  fatal _ _ _ _ _ h := h
  skip _ _ h := h
  close _ _ h := h
  final s _ h := (finalizeEvent_params s).trans h
  pop s _ h := (outPopEvent_params s).trans h
  reset _ h := h

theorem step_params {s t : State} (h : step s = .next t) : t.params = s.params :=
  (params_keptBySession s.params).step_keeps rfl h

/-! ### What a byte can do to EVENTS (60_exceptions.md R410, R415) -/

/-- EVENTS stays as it is, or FATAL rises at an abort. -/
def KeepsEventsOrAborts (s t : State) : Prop :=
  t.eventBits = s.eventBits ∨ t.session = .aborted ∧ t.eventBits = s.eventBits ||| evFatal

theorem exec_keepsEventsOrAborts {i : Instr} {s t : State} (h : exec i s = .next t) : KeepsEventsOrAborts s t := by
  obtain ⟨m, rfl | ⟨info, rfl⟩⟩ := exec_memoriesOrAbort h
  · exact .inl rfl
  · exact .inr ⟨rfl, rfl⟩

theorem fieldStatus_keepsEventsOrAborts {b : Byte} {s t : State} (h : fieldStatus b s = .next t) :
    KeepsEventsOrAborts s t := by
  unfold fieldStatus at h
  split_ifs at h
  · obtain ⟨u, hexec, hnext⟩ := onNext_eq_next h
    cases hnext
    have hkeeps := exec_keepsEventsOrAborts hexec
    exact hkeeps
  · cases h
    exact .inr ⟨rfl, rfl⟩
  · cases h
    exact .inl rfl

/-- Only the magic check and the validation can end in an abort (40_framer.md R186, R195). -/
theorem fieldRule_keepsEventsOrAborts {b : Byte} {s t : State} (h : fieldRule b s = .next t) : KeepsEventsOrAborts s t := by
  unfold fieldRule at h
  cases hfield : s.field <;> simp only [hfield] at h
  case magic1 =>
    cases h
    by_cases hmagic : s.magic ||| high16 b = Config.magic
    · rw [fieldMagic1_of_magic hmagic]
      exact .inl rfl
    · rw [fieldMagic1_of_desync hmagic]
      exact .inr ⟨rfl, rfl⟩
  case status => exact fieldStatus_keepsEventsOrAborts h
  all_goals
    cases h
    exact .inl rfl

/-! ### What an event can do to EVENTS (60_exceptions.md R415) -/

/-- The ways in which an event `e` changes EVENTS from `old` to `new`, each with its change of the session state from `x` to
`y`. -/
inductive EventBitsChange (e : Event) (x y : SessionState) (old new : BitVec 3) : Prop
  | kept (h : new = old)
  | abort (hx : x = .receiving) (hy : y = .aborted) (h : new = old ||| evFatal)
  | noImage (hx : x = .finalizing) (hy : y = .idle) (h : new = old ||| evDone)
  | sizeOverflow (hx : x = .finalizing) (hy : y = .idle) (h : new = old ||| (evFatal ||| evDone))
  | emissionEnd (hx : x = .emitting) (hy : y = .idle) (h : new = old ||| (evDone ||| evImage))
  | reset (he : isReset e = true) (h : new = 0#3)
  | cleared (v : Word) (he : e = .csrWrite 0x0C#8 v) (h : new = old &&& ~~~ v.extractLsb' 0 3)

/-- `e` leads from `s` to `t` with a listed change of EVENTS. -/
def ChangesEvents (e : Event) (s t : State) : Prop := EventBitsChange e s.session t.session s.eventBits t.eventBits

theorem changesEvents_byteInEvent {b : Byte} {s t : State} (h : byteInEvent b s = .next t) :
    ChangesEvents (.byteIn b) s t := by
  unfold byteInEvent at h
  cases hsession : s.session <;> simp only [hsession] at h
  case receiving =>
    obtain hkept | ⟨hab, hbits⟩ := fieldRule_keepsEventsOrAborts h
    · exact .kept hkept
    · exact .abort hsession hab hbits
  all_goals
    cases h
    exact .kept rfl

theorem endEvent_eventBits (s : State) : (endEvent s).eventBits = s.eventBits := by
  rcases endEvent_cases s with ⟨-, -, he⟩ | ⟨-, -, he⟩ | ⟨-, he⟩ | ⟨-, he⟩ <;> rw [he]

theorem timeoutCheck_eventBits (s : State) : (timeoutCheck s).eventBits = s.eventBits := by
  rcases timeoutCheck_cases s with ⟨-, he⟩ | ⟨-, he⟩ <;> rw [he]
  exact endEvent_eventBits s

theorem tickEvent_eventBits (s : State) : (tickEvent s).eventBits = s.eventBits := by
  unfold tickEvent
  split_ifs
  · exact timeoutCheck_eventBits { s with idleCnt := satInc s.idleCnt }
  · rfl

/-- CTRL resets where SRST is written, EVENTS is write-1-to-clear, and no other register is a part of EVENTS. -/
theorem changesEvents_writeReg (r : Reg) (v : Word) (s : State) :
    ChangesEvents (.csrWrite r.offset v) s (writeReg r v s) := by
  cases r with
  | ctrl =>
    simp only [writeReg, writeCtrl]
    split_ifs with hsrst
    · exact .reset (by simp [isReset, CsrRequest.isSoftReset, hsrst]) rfl
    · exact .kept (endEvent_eventBits { s with en := v.getLsbD 0, strict := v.getLsbD 1 })
    · exact .kept rfl
  | events => exact .cleared v rfl rfl
  | idleLimit => exact .kept (timeoutCheck_eventBits { s with idleLimit := v })
  | _ => exact .kept rfl

theorem changesEvents_csrWriteEvent (offset : Byte) (v : Word) (s : State) :
    ChangesEvents (.csrWrite offset v) s (csrWriteEvent offset v s) := by
  obtain ⟨answer, he | ⟨r, rfl, he⟩⟩ := csrWriteEvent_cases offset v s <;> rw [he]
  · exact .kept rfl
  · exact changesEvents_writeReg r v s

theorem changesEvents_outPopEvent {s : State} (hemit : s.session = .emitting) :
    ChangesEvents .outPop s (outPopEvent s) := by
  unfold outPopEvent
  split_ifs
  · exact .emissionEnd hemit rfl (BitVec.or_assoc _ _ _)
  · exact .kept rfl

theorem changesEvents_finalizeEvent {s : State} (hfin : s.session = .finalizing) :
    ChangesEvents .finalize s (finalizeEvent s) := by
  rcases finalizeEvent_cases s with ⟨o, he⟩ | he | ⟨-, he⟩ <;> rw [he]
  · exact .noImage hfin rfl rfl
  · exact .sizeOverflow hfin rfl (BitVec.or_assoc _ _ _)
  · exact .kept rfl

/-- Every enabled event but a clocked cycle changes EVENTS in one of the listed ways. -/
theorem changesEvents_applyEvent {e : Event} {s t : State} (he : enabled e s = true) (hcycle : isCycle e = false)
    (ht : applyEvent e s = .next t) : ChangesEvents e s t := by
  cases e with
  | byteIn b => exact changesEvents_byteInEvent ht
  | tick =>
    cases ht
    exact .kept (tickEvent_eventBits s)
  | disconnect =>
    cases ht
    exact .kept (endEvent_eventBits s)
  | csrRead offset =>
    cases ht
    rw [csrReadEvent_eq]
    exact .kept rfl
  | csrWrite offset v =>
    cases ht
    exact changesEvents_csrWriteEvent offset v s
  | outPop =>
    cases ht
    exact changesEvents_outPopEvent ((outValid_iff s).1 he)
  | reset =>
    cases ht
    exact .reset rfl rfl
  | finalize =>
    cases ht
    exact changesEvents_finalizeEvent (by simpa [enabled] using he)
  | cycle c => cases hcycle

/-! ### The bits that a change raises and clears -/

section
variable {e : Event} {x y : SessionState} {old new : BitVec 3} {k : Nat}

/-- A bit that rises: at an abort, at a session's end without an image, or at the end of an emission. -/
theorem EventBitsChange.rises (h : EventBitsChange e x y old new) (hnew : new.getLsbD k = true) (hold : old.getLsbD k = false) :
    x = .receiving ∧ y = .aborted ∧ evFatal.getLsbD k = true ∨
    x = .finalizing ∧ y = .idle ∧ (evFatal ||| evDone).getLsbD k = true ∨
    x = .emitting ∧ y = .idle ∧ (evDone ||| evImage).getLsbD k = true := by
  have hraised {bits : BitVec 3} (h : new = old ||| bits) : bits.getLsbD k = true := by
    simpa only [h, BitVec.getLsbD_or, hold, Bool.false_or] using hnew
  cases h with
  | kept h => simp [h, hold] at hnew
  | abort hx hy h => exact .inl ⟨hx, hy, hraised h⟩
  | noImage hx hy h => exact .inr (.inl ⟨hx, hy, by simp [hraised h]⟩)
  | sizeOverflow hx hy h => exact .inr (.inl ⟨hx, hy, hraised h⟩)
  | emissionEnd hx hy h => exact .inr (.inr ⟨hx, hy, hraised h⟩)
  | reset _ h => simp [h] at hnew
  | cleared v _ h => simp [h, hold] at hnew

/-- A bit that falls: by Reset, by soft reset, or by a write of 1 to it. -/
theorem EventBitsChange.falls (h : EventBitsChange e x y old new) (hold : old.getLsbD k = true) (hnew : new.getLsbD k = false) :
    isReset e = true ∨ ∃ v : Word, e = .csrWrite 0x0C#8 v ∧ v.getLsbD k = true := by
  have hnot {bits : BitVec 3} (h : new = old ||| bits) : False := by simp [h, hold] at hnew
  cases h with
  | kept h => exact (hnot (bits := 0#3) (by rw [h, BitVec.or_zero])).elim
  | abort _ _ h => exact (hnot h).elim
  | noImage _ _ h => exact (hnot h).elim
  | sizeOverflow _ _ h => exact (hnot h).elim
  | emissionEnd _ _ h => exact (hnot h).elim
  | reset he _ => exact .inl he
  | cleared v he h =>
    have hk : k < 3 := BitVec.lt_of_getLsbD hold
    exact .inr ⟨v, he, by simpa [h, hold, hk] using hnew⟩

end

/-! ### irq (60_exceptions.md R417) -/

/-- A vector is not 0 exactly when one of its bits is set. -/
theorem ne_zero_iff_exists_getLsbD {w : Nat} (x : BitVec w) : x ≠ 0#w ↔ ∃ k, k < w ∧ x.getLsbD k = true := by
  refine ⟨fun hne => ?_, ?_⟩
  · by_contra! hnone
    exact hne (BitVec.eq_of_getLsbD_eq fun k hk => by simpa using hnone k hk)
  · rintro ⟨k, -, hk⟩ rfl
    simp at hk

/-! ### Set wins over clear in one cycle (60_exceptions.md R416, R421) -/

/-- A cycle of an accepted byte and a register write that is no soft reset: the byte with EVENTS = 0, then the write, over which
the bits that the byte raised win. -/
theorem cycleEvent_byte_and_write {b offset : Byte} {v : Word} {s : State} (hready : s.inReady = true)
    (hwrite : (CsrRequest.write offset v).isSoftReset = false) :
    cycleEvent { rst := false, inData := some b, disconnect := false, tick := false, outReady := false,
                 csr := some (.write offset v), finalizeNow := false } s =
      onNext (byteInEvent b { s with eventBits := 0#3 }) fun t =>
        .next { withRaised s.eventBits (csrWriteEvent offset v) t with disconnectLevel := false } := by
  simp [cycleEvent, cycleResets, acceptedByte, cycleByte, cycleTimers, cycleWrite, cycleOutput, cycleRead, hready, hwrite,
    withRaised]

/-- A write of ones to all of EVENTS leaves the bits raised before it in the cycle. -/
theorem withRaised_clear_all (old : BitVec 3) (s : State) :
    withRaised old (csrWriteEvent 0x0C#8 0xFFFFFFFF#32) s = { s with csrAnswer := .written } := by
  have hclear : (s.eventBits ||| old) &&& ~~~ BitVec.extractLsb' 0 3 0xFFFFFFFF#32 ||| s.eventBits = s.eventBits := by
    have hones : ~~~ BitVec.extractLsb' 0 3 0xFFFFFFFF#32 = 0#3 := by decide
    rw [hones, BitVec.and_zero, BitVec.zero_or]
  have hwrite (u : State) : csrWriteEvent 0x0C#8 0xFFFFFFFF#32 u =
      { clearEvents (BitVec.extractLsb' 0 3 0xFFFFFFFF#32) u with csrAnswer := .written } := rfl
  simp only [withRaised, hwrite, clearEvents, raiseEvents, hclear]

/-! ### The return from an abort (60_exceptions.md R413) -/

/-- The low three bits of RESULT are its OUTCOME (10_state.md R53). -/
theorem resultWord_toNat_mod_eight (o : SessionOutcome) : ∀ trunc rleBad skipAny : Bool,
    (resultWord o trunc rleBad skipAny).toNat % 8 = o.code.toNat := by
  cases o <;> decide

/-- An aborted session after its end event and its Finalize step, with `rest` still pending. -/
def returnedFromAbort (rest : List Event) (s : State) : State :=
  finishWithoutImage s.fatalKind.outcome
    { s with session := .finalizing, idleCnt := 0#32, pending := rest, csrAnswer := .quiet }

theorem run_disconnect_finalize_of_aborted {rest : List Event} {s : State} (hab : s.session = .aborted)
    (hkind : s.fatalKind ≠ .none) (hp : s.pending = .disconnect :: .finalize :: rest) :
    run 2 s = .next (returnedFromAbort rest s) := by
  have hend : endEvent (beginEvent (.finalize :: rest) s) =
      { beginEvent (.finalize :: rest) s with session := .finalizing, idleCnt := 0#32 } :=
    endEvent_of_no_packet (.inr hab)
  rw [run_succ, step_disconnect hp, hend, onNext_next, run_succ, step_finalize (rest := rest) rfl rfl]
  exact congrArg Host.Outcome.next (finalizeEvent_of_fatal hkind)

end Sys2Proof.Machine

namespace Sys2Proof.Proofs

open Sys2Proof.Machine Sys2Proof.Safety

/-- Settles O52: the step is an event, which always answers (`step_next`), and no event writes the parameters (`step_params`). -/
theorem everyStepAnswersANextStateWithTheSameParameters :
    Obligations.EveryStepAnswersANextStateWithTheSameParameters := by
  intro s
  obtain ⟨t, ht⟩ := step_next s
  exact ⟨t, ht, step_params ht⟩

/-- Settles O37: every event changes EVENTS in a listed way (`changesEvents_applyEvent`), and each way raises and clears its own
bits only. -/
theorem eventBitsChangeOnlyAsListed : Obligations.EventBitsChangeOnlyAsListed := by
  intro e s t he hcycle ht
  have hchange := changesEvents_applyEvent he hcycle ht
  refine ⟨fun h1 h0 => ?done, fun h1 h0 => ?image, fun h1 h0 => ?fatal, fun _ h1 h0 => hchange.falls h1 h0⟩
  case done =>
    obtain ⟨-, -, hbit⟩ | ⟨hfin, hidle, -⟩ | ⟨hemit, hidle, -⟩ := hchange.rises h1 h0
    · exact absurd hbit (by decide)
    · exact ⟨.inl hfin, hidle⟩
    · exact ⟨.inr hemit, hidle⟩
  case image =>
    obtain ⟨-, -, hbit⟩ | ⟨-, -, hbit⟩ | ⟨hemit, hidle, -⟩ := hchange.rises h1 h0
    · exact absurd hbit (by decide)
    · exact absurd hbit (by decide)
    · exact ⟨hemit, hidle⟩
  case fatal =>
    obtain ⟨hrec, hab, -⟩ | ⟨hfin, hidle, -⟩ | ⟨-, -, hbit⟩ := hchange.rises h1 h0
    · exact .inl ⟨hrec, hab⟩
    · exact .inr ⟨hfin, hidle⟩
    · exact absurd hbit (by decide)

/-- Settles O34: the session ends with its kind's outcome (`run_disconnect_finalize_of_aborted`), and the byte that follows starts
a session in IDLE (`step_byte_idle`). -/
theorem abortedSessionReturnsToIdleAndStartsFresh : Obligations.AbortedSessionReturnsToIdleAndStartsFresh := by
  intro b rest s hen hab hkind hp
  have hreturn : run 2 s = .next (returnedFromAbort (.byteIn b :: rest) s) :=
    run_disconnect_finalize_of_aborted hab hkind hp
  have hstart := step_byte_idle (s := returnedFromAbort (.byteIn b :: rest) s) hen rfl rfl
  have hfresh : run 3 s =
      .next (fieldMagic0 b (sessionStart (beginEvent rest (returnedFromAbort (.byteIn b :: rest) s)))) := by
    rw [run_add 2 1, hreturn]
    exact (onNext_run_zero _).trans hstart
  refine ⟨_, _, hreturn, rfl, resultWord_toNat_mod_eight _ _ _ _, rfl, rfl, hfresh, rfl, rfl, low16_toNat b, ?cleared⟩
  case cleared => and_intros <;> rfl

/-- Settles O44: a bit of EVENTS & IRQ_EN is a bit of both. -/
theorem interruptIsTheEnabledEvents : Obligations.InterruptIsTheEnabledEvents := by
  intro s
  rw [State.irq, bne_iff_ne, ne_zero_iff_exists_getLsbD]
  simp only [BitVec.getLsbD_and, Bool.and_eq_true]

/-- Settles O60: with EVENTS = 0 the byte's abort raises exactly FATAL (`fieldMagic1_of_desync`), which is set again after the
write clears everything (`withRaised_clear_all`). -/
theorem eventSetWinsOverItsClear : Obligations.EventSetWinsOverItsClear := by
  intro b s hen hrec hmagic1 hbad
  have hready : s.inReady = true := inReady_of_open hen (.inr (.inl hrec))
  have hbyte : byteInEvent b { s with eventBits := 0#3 } =
      .next (fieldMagic1 b { s with eventBits := 0#3, idleCnt := 0#32 }) := by
    simp only [byteInEvent, hrec, fieldRule, hmagic1]
  rw [cycleEvent_byte_and_write hready rfl, hbyte, onNext_next, withRaised_clear_all,
    fieldMagic1_of_desync (s := { s with eventBits := 0#3, idleCnt := 0#32 }) hbad]
  exact ⟨_, rfl, BitVec.zero_or, rfl, rfl⟩

end Sys2Proof.Proofs
end

section
/-! Proofs about Reset and soft reset (70_reset_and_hazards.md): what they leave, what the registers then read as, and that every
invariant holds after Reset. -/

namespace Sys2Proof.Machine

open Sys2Proof.Safety

/-! ### Reset (70_reset_and_hazards.md R450, R451) -/

/-- Reset leaves `State.reset` but for the configuration and the surroundings of the block. -/
theorem hardReset_eq (s : State) :
    hardReset s = { State.reset with
      idleLimit := s.params.idleLimitReset, params := s.params, pending := s.pending
      disconnectLevel := s.disconnectLevel } := rfl

/-- The step on a pending Reset. -/
theorem step_reset {rest : List Event} {s : State} (hp : s.pending = .reset :: rest) :
    step s = .next (hardReset (beginEvent rest s)) :=
  step_head hp rfl

theorem ctrlWord_hardReset (s : State) : (hardReset s).ctrlWord = 2#32 :=
  BitVec.eq_of_toNat_eq (ctrlWord_toNat _)

theorem statusWord_hardReset (s : State) : (hardReset s).statusWord = 0#32 :=
  BitVec.eq_of_toNat_eq (statusWord_toNat _)

theorem irq_hardReset (s : State) : (hardReset s).irq = false := by
  simp [State.irq]

/-- After Reset only CTRL (STRICT = 1), IDLE_LIMIT (its parameter), CAP_STORE and CAP_PARTS (the configuration) can read
nonzero; every other offset reads 0, the reserved ones included (10_state.md R67). -/
theorem readOffset_hardReset_of_zero {offset : Byte} (h : offset ∉ [0x00#8, 0x14#8, 0x34#8, 0x38#8]) (s : State) :
    readOffset offset (hardReset s) = 0#32 := by
  cases hr : regAt offset with
  | none => simp only [readOffset, hr]
  | some r =>
    obtain rfl := offset_of_regAt hr
    rw [readOffset_offset]
    cases r with
    | ctrl => exact absurd h (by decide)
    | idleLimit => exact absurd h (by decide)
    | capStore => exact absurd h (by decide)
    | capParts => exact absurd h (by decide)
    | status => exact statusWord_hardReset s
    | _ => rfl

/-- Reset establishes every invariant from whatever state: it leaves a packet boundary in IDLE, with IDLE_CNT = 0 and nothing
held. Only the parameters' ranges are not its doing. -/
theorem inv_hardReset {s : State} (hp : s.params.inRange = true) : Inv (hardReset s) := by
  have hframer : FramerInv (hardReset s) := framerInv_of_boundary (hardReset_field s)
  have htimer : TimerInv (hardReset s) := timerInv_of_zero (hardReset_idleCnt s)
  have hmemory : MemoryInv (hardReset s) := ⟨rfl, rfl, rfl, rfl⟩
  have houtput : OutputInv (hardReset s) := (outputInv_of_idle (hardReset_session s)).2 ⟨rfl, rfl, rfl⟩
  exact ⟨hp, hframer, htimer, hmemory, houtput⟩

/-- `State.reset` is what Reset makes of itself. -/
theorem hardReset_stateReset : hardReset State.reset = State.reset := rfl

/-! ### Soft reset (70_reset_and_hazards.md R452) -/

/-- A write of CTRL with SRST is a soft reset, whatever END is (10_state.md R51). -/
theorem writeCtrl_of_srst {v : Word} (hsrst : v.getLsbD 3 = true) (s : State) :
    writeCtrl v s = softReset (v.getLsbD 0) (v.getLsbD 1) s :=
  if_pos hsrst

/-- Soft reset leaves `State.reset` but for EN and STRICT, what it keeps, the configuration and the surroundings of the block. -/
theorem softReset_eq (en strict : Bool) (s : State) :
    softReset en strict s = { State.reset with
      en := en, strict := strict, idleLimit := s.idleLimit, irqEn := s.irqEn
      params := s.params, pending := s.pending, csrAnswer := s.csrAnswer, disconnectLevel := s.disconnectLevel } := rfl

end Sys2Proof.Machine

namespace Sys2Proof.Proofs

open Sys2Proof.Machine

/-- Settles O42: the write is a soft reset (`writeCtrl_of_srst`), whose result is `State.reset` with what it keeps
(`softReset_eq`). -/
theorem softResetKeepsTheConfiguration : Obligations.SoftResetKeepsTheConfiguration := by
  intro v rest s hp hsrst
  have hstep := step_writeReg .ctrl hp ((writeCtrl_of_srst hsrst _).trans (softReset_eq _ _ _))
  exact hstep

/-- Settles O53: the step is `hardReset` (`step_reset`), which leaves the listed components (`hardReset_eq`); the registers that
are not 0 then are read by name, and all other offsets are `readOffset_hardReset_of_zero`. -/
theorem resetLeavesTheListedValues : Obligations.ResetLeavesTheListedValues := by
  intro rest s hp
  have hread (r : Reg) : readOffset r.offset (hardReset (beginEvent rest s)) = readReg r (hardReset (beginEvent rest s)) :=
    readOffset_offset r _
  have hctrl := (hread .ctrl).trans (ctrlWord_hardReset _)
  have hlimit := hread .idleLimit
  refine ⟨_, step_reset hp, hardReset_eq _, hctrl, hlimit, fun hrecommended => ?recommended, hread .capStore,
    hread .capParts, fun offset h => readOffset_hardReset_of_zero h _, ?outputs⟩
  case recommended => exact hlimit.trans (congrArg Config.Params.idleLimitReset hrecommended)
  case outputs => exact ⟨rfl, rfl, rfl, rfl, rfl, rfl, rfl, irq_hardReset _⟩

/-- Settles O58: `State.reset` is a state after Reset, with the recommended parameters, which are in range. -/
theorem resetStateMeetsTheInvariants : Obligations.ResetStateMeetsTheInvariants := by
  have hinv := inv_hardReset (s := State.reset) rfl
  rwa [hardReset_stateReset] at hinv

end Sys2Proof.Proofs
end
